-- ==== Sys2Proof/Word.lean ====
section
/-! DEFINITION. The word types of the AHT20 sequencer (00_scope.md R8, R9): all values are unsigned. -/

namespace Sys2Proof

/-- A byte, bits 7 (most significant) to 0 (R8). -/
abbrev Byte := BitVec 8

/-- A 7-bit bus address (R60). -/
abbrev Addr := BitVec 7

/-- A count of milliseconds at the delay port, 16 bits (R26). -/
abbrev Millis := BitVec 16

/-- A 20-bit raw field, bits 19 to 0 (R8, R33). -/
abbrev RawField := BitVec 20

/-- The 2-bit host operation code `req_op` (R80). -/
abbrev OpCode := BitVec 2

end Sys2Proof
end

