-- ==== Sys2Proof/Config.lean ====
section
/-! DEFINITION. The parameters of the block (00_scope.md R6, R7): values the model takes as an argument.
They stand in State as one field that no step changes, so that a statement over all states is a statement
over all parameter values (notes/assumptions/4.md). -/

namespace Sys2Proof

/-- `FLOAT_FORMAT` (R6, 92 D12). -/
inductive FloatFormat where
  | binary64
  | binary32
  deriving DecidableEq, Repr

/-- A 3-byte wire command, `b0` sent first (R65, R88). -/
structure Command3 where
  b0 : Byte
  b1 : Byte
  b2 : Byte
  deriving DecidableEq, Repr

/-- The open parameters of R6. The fixed ones (the delays, the frame length, the CRC profile, the status
bits) are constants of the model. -/
structure Params where
  /-- `DEV_ADDR` -/
  devAddr : Addr
  /-- `CMD_SOFT_RESET` -/
  cmdSoftReset : Byte
  /-- `CMD_READ_STATUS` -/
  cmdReadStatus : Byte
  /-- `CMD_CALIBRATE` -/
  cmdCalibrate : Command3
  /-- `CMD_TRIGGER` -/
  cmdTrigger : Command3
  /-- `FLOAT_FORMAT` -/
  floatFormat : FloatFormat
  deriving DecidableEq, Repr

end Sys2Proof
end

