-- ==== Sys2Proof/Syntax.lean ====
section
/-! DEFINITION. The instructions: one constructor per row of spec/opcode_table.json, none with an operand
(30_encoding.md R80: no operand fields; R88: a wire command is the value of its parameter). -/

namespace Sys2Proof

inductive Instr where
  /-- INIT, req_op 01 (40_init.md R110). -/
  | init
  /-- MEASURE, req_op 10 (41_measure.md R140). -/
  | measure
  /-- The reserved req_op 00 (60_exceptions.md R235). -/
  | illegal00
  /-- The reserved req_op 11 (60_exceptions.md R235). -/
  | illegal11
  /-- The wire command CMD_SOFT_RESET, sent in I_RESET (40_init.md R112). -/
  | devSoftReset
  /-- The wire command CMD_READ_STATUS, sent in I_STAT1 and I_STAT2 (40_init.md R114, R117). -/
  | devReadStatus
  /-- The wire command CMD_CALIBRATE, sent in I_CAL (40_init.md R115). -/
  | devCalibrate
  /-- The wire command CMD_TRIGGER, sent in M_TRIG (41_measure.md R141). -/
  | devTrigger
  deriving DecidableEq, Repr

/-- An undecoded instruction: a host operation code at the request port (R80), or the bytes of a wire
command in the order they are sent (R65, R88). -/
inductive Code where
  | hostOp (op : OpCode)
  | wire (bytes : List Byte)
  deriving DecidableEq, Repr

end Sys2Proof
end

