-- ==== Sys2Proof/WellFormed.lean ====
section
/-! DEFINITION. What makes code words and instructions well formed. An instruction has no operand, so the
only thing that can go wrong is that two wire commands of one length are given the same bytes, since R6
leaves their values open; such a word would stand for two instructions. -/

namespace Sys2Proof

/-- The lengths of R95: a wire command has 1 or 3 bytes; a host operation code is 2 bits by its type. -/
def Code.lengthOk : Code → Bool
  | .hostOp _ => true
  | .wire bytes => bytes.length == 1 || bytes.length == 3

/-- An instruction's code word under `p` is its own: no other command of its length has the same bytes. -/
def Instr.WellFormed (p : Params) : Instr → Bool
  | .init => true
  | .measure => true
  | .illegal00 => true
  | .illegal11 => true
  | .devSoftReset => p.cmdSoftReset != p.cmdReadStatus
  | .devReadStatus => p.cmdSoftReset != p.cmdReadStatus
  | .devCalibrate => p.cmdCalibrate != p.cmdTrigger
  | .devTrigger => p.cmdCalibrate != p.cmdTrigger

end Sys2Proof
end

