-- ==== Sys2Proof/Decode.lean ====
section
/-! DEFINITION. Decoding and encoding (30_encoding.md R80, R81, R88, R95). The block decodes only `req_op`
(R3); a wire command is decoded here so that the words of the opcode table name their instructions. -/

namespace Sys2Proof

/-- Why a code word is no instruction. -/
inductive Reject where
  /-- A wire command has 1 or 3 bytes (R95). -/
  | wireLength
  /-- The bytes are no command of R88 under these parameters. -/
  | unknownCommand
  /-- The bytes are two commands of R88 at once: the parameters give both the same value. -/
  | ambiguousCommand
  deriving DecidableEq, Repr

/-- The default values of the open parameters (R6). -/
def defaultParams : Params where
  devAddr := 0x38#7
  cmdSoftReset := 0xBA#8
  cmdReadStatus := 0x71#8
  cmdCalibrate := ⟨0xBE#8, 0x08#8, 0x00#8⟩
  cmdTrigger := ⟨0xAC#8, 0x33#8, 0x00#8⟩
  floatFormat := .binary64

/-- The host operation of each `req_op` (R80); total, since every one of the 4 values has an outcome (R81). -/
def decodeHostOp (op : OpCode) : Instr :=
  if op = 0b01#2 then .init
  else if op = 0b10#2 then .measure
  else if op = 0b00#2 then .illegal00
  else .illegal11

/-- Chooses between two commands of one length, by which of them the bytes are. -/
def decodePair (isFirst isSecond : Bool) (first second : Instr) : Except Reject Instr :=
  match isFirst, isSecond with
  | true, false => .ok first
  | false, true => .ok second
  | true, true => .error .ambiguousCommand
  | false, false => .error .unknownCommand

/-- The wire command that a list of bytes in send order is (R88). -/
def decodeWire (p : Params) : List Byte → Except Reject Instr
  | [b] => decodePair (b == p.cmdSoftReset) (b == p.cmdReadStatus) .devSoftReset .devReadStatus
  | [b0, b1, b2] =>
    decodePair (Command3.mk b0 b1 b2 == p.cmdCalibrate) (Command3.mk b0 b1 b2 == p.cmdTrigger)
      .devCalibrate .devTrigger
  | _ => .error .wireLength

/-- Decodes any code word. -/
def decode (p : Params) : Code → Except Reject Instr
  | .hostOp op => .ok (decodeHostOp op)
  | .wire bytes => decodeWire p bytes

/-- The bytes of a 3-byte command in send order (R65). -/
def commandBytes (c : Command3) : List Byte := [c.b0, c.b1, c.b2]

/-- The code word of an instruction (R80, R88). -/
def encode (p : Params) : Instr → Code
  | .init => .hostOp 0b01#2
  | .measure => .hostOp 0b10#2
  | .illegal00 => .hostOp 0b00#2
  | .illegal11 => .hostOp 0b11#2
  | .devSoftReset => .wire [p.cmdSoftReset]
  | .devReadStatus => .wire [p.cmdReadStatus]
  | .devCalibrate => .wire (commandBytes p.cmdCalibrate)
  | .devTrigger => .wire (commandBytes p.cmdTrigger)

/-- The code word that a number of spec/opcode_table.json stands for. A row of at most one byte is a host
operation code when its value fits in 2 bits, and else a 1-byte command; a row of three bytes is a 3-byte
command whose byte sent first is bits 23 to 16 (the table's "byte sent first in 23:16"). -/
def codeOfTableWord (nbits w : Nat) : Code :=
  if nbits ≤ 8 then
    if w < 4 then .hostOp (BitVec.ofNat 2 w) else .wire [BitVec.ofNat 8 w]
  else if nbits ≤ 16 then .wire [BitVec.ofNat 8 (w / 256), BitVec.ofNat 8 w]
  else .wire [BitVec.ofNat 8 (w / 65536), BitVec.ofNat 8 (w / 256), BitVec.ofNat 8 w]

/-- The instruction read from a word numbered as spec/opcode_table.json numbers it, under the default
parameters (the table holds the default command bytes). -/
def decodeTableWord (nbits w : Nat) : Option Instr :=
  match decode defaultParams (codeOfTableWord nbits w) with
  | .ok i => some i
  | .error _ => none

end Sys2Proof
end

