-- ==== Sys2Proof/Machine/State.lean ====
section
/-! DEFINITION. The state of the AHT20 sequencer as plain data (10_state.md R28), the events at its ports
(R10), and the reasons a step can stop. -/

namespace Sys2Proof.Machine

/-- The state register `fsm` (30_encoding.md R92): one constructor per 4-bit code; `reserved low` is the
code `11 ‖ low`, that is 1100 to 1111, which the block never enters (R94). -/
inductive Fsm where
  | idle
  | iPwrWait
  | iReset
  | iResetWait
  | iStat1
  | iCal
  | iCalWait
  | iStat2
  | mTrig
  | mWait
  | mRead
  | mEval
  | reserved (low : BitVec 2)
  deriving DecidableEq, Repr

/-- The 2-bit result code (R90), used in RESULT and in a bus response's `code`. -/
inductive ResultCode where
  | ok
  | err
  | timeout
  /-- The code 11: never written to RESULT, and outside the contract in a response (R25, R94). -/
  | reserved
  deriving DecidableEq, Repr

/-- The 3-bit cause code of ERR_CAUSE (R91). -/
inductive Cause where
  | none
  | calibrationFailure
  | sensorBusy
  | notCalibrated
  | dataCorruption
  | transport
  | illegalOp
  /-- The code 111: never written (R94). -/
  | reserved
  deriving DecidableEq, Repr

/-- The kind of a bus request (R89); the code 11 is never issued and so has no constructor. -/
inductive BusKind where
  | write
  | writeThenRead
  | read
  deriving DecidableEq, Repr

/-- The bus request record (R24). -/
structure BusReq where
  kind : BusKind
  addr : Addr
  tx : List Byte
  rxLen : Nat
  deriving DecidableEq, Repr

/-- The bus response record (R24); `rx` has a meaning only when `code` is Ok. -/
structure BusResp where
  code : ResultCode
  rx : List Byte
  deriving DecidableEq, Repr

/-- A request at one of the block's two outgoing ports (R24, R26). -/
inductive PortRequest where
  | bus (r : BusReq)
  | delay (ms : Millis)
  deriving DecidableEq, Repr

/-- The 7-byte MeasurementFrame buffer `frame[0..6]` (R32, R84). -/
structure Frame where
  b0 : Byte
  b1 : Byte
  b2 : Byte
  b3 : Byte
  b4 : Byte
  b5 : Byte
  b6 : Byte
  deriving DecidableEq, Repr

/-- The contents of TEMP or HUM (R37): a bit pattern in FLOAT_FORMAT. -/
inductive FloatReg where
  | binary64 (bits : BitVec 64)
  | binary32 (bits : BitVec 32)
  deriving DecidableEq, Repr

/-- The pattern of +0.0, which TEMP and HUM hold after reset (DESIGN CHOICE, notes/assumptions/3.md). -/
def FloatReg.zero : FloatFormat → FloatReg
  | .binary64 => .binary64 0#64
  | .binary32 => .binary32 0#32

/-- The host-visible registers, by name (R23, R96 `RD <reg>`). -/
inductive HostReg where
  | busy
  | done
  | result
  | errCause
  | temp
  | hum
  deriving DecidableEq, Repr

/-- What a host read returns. -/
inductive HostValue where
  | flag (b : Bool)
  | result (code : BitVec 2)
  | cause (code : BitVec 3)
  | binary64 (bits : BitVec 64)
  | binary32 (bits : BitVec 32)
  deriving DecidableEq, Repr

/-- One event seen at a port of the block (R10, 92 D1), as `State.trace` records it. -/
inductive PortEvent where
  /-- A host request was accepted (R22). -/
  | accept (op : OpCode)
  /-- A bus or delay request was issued (R30). -/
  | request (r : PortRequest)
  /-- A bus response was taken (R24). -/
  | busAnswer (code : ResultCode) (rx : List Byte)
  /-- A delay done was taken (R26). -/
  | delayDone
  /-- The operation ended (R232). -/
  | complete (result : ResultCode) (cause : Cause)
  /-- The host read a register (R23). -/
  | hostRead (reg : HostReg) (value : HostValue)
  /-- The block was reset (R260). -/
  | reset
  deriving DecidableEq, Repr

/-- One agent's turn (R20). The list of turns stands in State, so that a step is a function of the state
and a statement over all states covers every interleaving and every answer (notes/assumptions/1.md). -/
inductive Turn where
  /-- The Sequencer moves. -/
  | sequencer
  /-- The host presents a request (R22). -/
  | request (op : OpCode)
  /-- The host reads a register (R23). -/
  | hostRead (reg : HostReg)
  /-- The bus transport answers the outstanding request, with any code and any bytes (R24, R27). -/
  | busAnswer (code : ResultCode) (rx : List Byte)
  /-- The delay collaborator answers the outstanding request (R26). -/
  | delayDone
  /-- An answer arrives to a request that a reset abandoned (R261). -/
  | lateAnswer
  /-- Reset arrives (R260). -/
  | reset
  deriving DecidableEq, Repr

/-- Why the model stops with a fault. Each is a stop the spec asks of a model; each is safe. -/
inductive Fault where
  /-- Raised by every meaning, and by every turn but a reset, when `fsm` holds a code 1100 to 1111 (R94, 93
  U9; notes/assumptions/13.md). Safe: the spec gives such a state no meaning. -/
  | fsmReserved
  /-- Raised by a host read of TEMP or HUM before the first MEASURE that completes Ok: R41 has a model fault
  that read (92 D22, 93 U12, 95 H-e). Safe: no value can be read there. -/
  | noReading
  /-- Raised by a host read of RESULT = 11 or ERR_CAUSE = 111, and by nothing else (R94, 93 U10;
  notes/assumptions/13.md). Safe: neither is ever written. -/
  | reservedCode
  deriving DecidableEq, Repr

/-- Why the model refuses a step. Each is safe: the model stops. -/
inductive Refusal where
  /-- Raised by an arm of `exec` for an instruction that has no meaning yet; no arm does. Safe. -/
  | notModelled (mnemonic : String)
  /-- Raised by a step at an answer to which no request is outstanding (R25, R26, 93 U6). Safe: outside the
  contract. -/
  | unsolicitedAnswer
  /-- Raised by the answer event of a bus state when an Ok response does not carry `rx_len` bytes (R25, 93
  U6). Safe: outside the contract. -/
  | responseLength
  /-- Raised by the answer event of a bus state at the response code 11 (R25, 93 U6). Safe: outside the
  contract. -/
  | responseCode
  /-- Raised by a wire command's meaning in a state that does not send that command (R62). Safe: no step
  asks for one (notes/assumptions/8.md). -/
  | commandOutOfState
  deriving DecidableEq, Repr

/-- The whole state. -/
structure State where
  /-- `fsm` (R29) -/
  fsm : Fsm
  /-- `pend` (R30) -/
  pend : Bool
  /-- `st` (R31) -/
  st : Byte
  /-- `frame[0..6]` (R32) -/
  frame : Frame
  /-- `raw_t` (R33) -/
  rawT : RawField
  /-- `raw_h` (R33) -/
  rawH : RawField
  /-- `DONE` (R34) -/
  done : Bool
  /-- `RESULT` (R35) -/
  result : ResultCode
  /-- `ERR_CAUSE` (R36) -/
  errCause : Cause
  /-- `TEMP` (R37) -/
  temp : FloatReg
  /-- `HUM` (R37) -/
  hum : FloatReg
  /-- A MEASURE has completed Ok since reset, so that a host read of TEMP or HUM has a value (R41;
  notes/assumptions/3.md). -/
  hasReading : Bool
  /-- The parameters (R6), which nothing changes (R7). -/
  params : Params
  /-- The host request port (R22): the requests presented and not yet accepted. `req_valid` is 1 when there
  is one, and `req_op` is the first (notes/assumptions/6.md). -/
  requests : List OpCode
  /-- The bus port's response, present only while the event that delivers it runs (R24). -/
  busResp : Option BusResp
  /-- The delay port's done, set only while the event that delivers it runs (R26). -/
  delayDone : Bool
  /-- The model's own: how many requests a reset abandoned and have not been answered yet (R261;
  notes/assumptions/7.md). -/
  abandoned : Nat
  /-- The model's own: the agents' coming turns (R20). When it is empty, the Sequencer moves
  (notes/assumptions/1.md). -/
  schedule : List Turn
  /-- The model's own: the port events so far, oldest first (R70; notes/assumptions/5.md). -/
  trace : List PortEvent
  deriving DecidableEq, Repr

/-- The outcome of one event. -/
abbrev Outcome := Host.Outcome State Fault Refusal

/-- The machine after reset (R40), with the default parameters (R6) and nothing at its ports. R40 leaves
`st`, `frame`, `raw_t` and `raw_h` unspecified: they are zero here (DESIGN CHOICE, notes/assumptions/2.md).
TEMP and HUM hold +0.0 (DESIGN CHOICE, notes/assumptions/3.md), which no host read gives: R40 and R41 say
that they have no value yet, and `hasReading` is false. -/
def State.reset : State where
  fsm := .idle
  pend := false
  st := 0#8
  frame := ⟨0#8, 0#8, 0#8, 0#8, 0#8, 0#8, 0#8⟩
  rawT := 0#20
  rawH := 0#20
  done := false
  result := .err
  errCause := .none
  temp := .zero .binary64
  hum := .zero .binary64
  hasReading := false
  params := defaultParams
  requests := []
  busResp := none
  delayDone := false
  abandoned := 0
  schedule := []
  trace := []

end Sys2Proof.Machine
end

