-- ==== Sys2Proof/Machine/Operands.lean ====
section
/-! DEFINITION. The codes of the registers and ports (30_encoding.md section 5), the fixed delays, the
requests the block issues (R62, R92), and the bytes and fields an instruction works on (43_unpack.md). -/

namespace Sys2Proof.Machine

/-! ### Codes -/

/-- The 4-bit code of a state (R92). -/
def Fsm.code : Fsm → BitVec 4
  | .idle => 0b0000#4
  | .iPwrWait => 0b0001#4
  | .iReset => 0b0010#4
  | .iResetWait => 0b0011#4
  | .iStat1 => 0b0100#4
  | .iCal => 0b0101#4
  | .iCalWait => 0b0110#4
  | .iStat2 => 0b0111#4
  | .mTrig => 0b1000#4
  | .mWait => 0b1001#4
  | .mRead => 0b1010#4
  | .mEval => 0b1011#4
  | .reserved low => 0b11#2 ++ low

/-- The 2-bit result code (R90). -/
def ResultCode.code : ResultCode → BitVec 2
  | .ok => 0b00#2
  | .err => 0b01#2
  | .timeout => 0b10#2
  | .reserved => 0b11#2

/-- The 3-bit cause code (R91). -/
def Cause.code : Cause → BitVec 3
  | .none => 0b000#3
  | .calibrationFailure => 0b001#3
  | .sensorBusy => 0b010#3
  | .notCalibrated => 0b011#3
  | .dataCorruption => 0b100#3
  | .transport => 0b101#3
  | .illegalOp => 0b110#3
  | .reserved => 0b111#3

/-- The 2-bit bus kind (R89). -/
def BusKind.code : BusKind → BitVec 2
  | .write => 0b00#2
  | .writeThenRead => 0b01#2
  | .read => 0b10#2

/-! ### The fixed delays (R6) -/

/-- `T_PWR_MS` -/
def tPwrMs : Millis := 40#16

/-- `T_RST_MS` -/
def tRstMs : Millis := 40#16

/-- `T_CAL_MS` -/
def tCalMs : Millis := 10#16

/-- `T_MEAS_MS` -/
def tMeasMs : Millis := 80#16

/-- `FRAME_LEN` -/
def frameLen : Nat := 7

/-! ### The bus transactions (R62): these five and no others -/

/-- Soft reset, issued in I_RESET (R112). -/
def softResetReq (p : Params) : BusReq := ⟨.write, p.devAddr, [p.cmdSoftReset], 0⟩

/-- Read status, issued in I_STAT1 and I_STAT2 (R114, R117). -/
def readStatusReq (p : Params) : BusReq := ⟨.writeThenRead, p.devAddr, [p.cmdReadStatus], 1⟩

/-- Calibrate, issued in I_CAL (R115). -/
def calibrateReq (p : Params) : BusReq := ⟨.write, p.devAddr, commandBytes p.cmdCalibrate, 0⟩

/-- Trigger measurement, issued in M_TRIG (R141). -/
def triggerReq (p : Params) : BusReq := ⟨.write, p.devAddr, commandBytes p.cmdTrigger, 0⟩

/-- Read frame, issued in M_READ (R143). -/
def readFrameReq (p : Params) : BusReq := ⟨.read, p.devAddr, [], frameLen⟩

/-- The request that a state issues (R92, third column); IDLE and M_EVAL issue none. -/
def portRequest (p : Params) : Fsm → Option PortRequest
  | .idle => none
  | .iPwrWait => some (.delay tPwrMs)
  | .iReset => some (.bus (softResetReq p))
  | .iResetWait => some (.delay tRstMs)
  | .iStat1 => some (.bus (readStatusReq p))
  | .iCal => some (.bus (calibrateReq p))
  | .iCalWait => some (.delay tCalMs)
  | .iStat2 => some (.bus (readStatusReq p))
  | .mTrig => some (.bus (triggerReq p))
  | .mWait => some (.delay tMeasMs)
  | .mRead => some (.bus (readFrameReq p))
  | .mEval => none
  | .reserved _ => none

/-- A bus request is outstanding (R21, R30). -/
def State.busPending (s : State) : Bool :=
  s.pend && (match portRequest s.params s.fsm with
    | some (.bus _) => true
    | _ => false)

/-- A delay request is outstanding (R21, R30). -/
def State.delayPending (s : State) : Bool :=
  s.pend && (match portRequest s.params s.fsm with
    | some (.delay _) => true
    | _ => false)

/-! ### Bytes received (R65) -/

/-- `rx[0]`, the byte of a status response; its length has been checked (R25). -/
def statusOf (rx : List Byte) : Byte := rx.getD 0 0#8

/-- `frame[i] <- rx[i]` for i = 0 to 6 (R32, R65); the length has been checked (R25). -/
def frameOf (rx : List Byte) : Frame :=
  ⟨rx.getD 0 0#8, rx.getD 1 0#8, rx.getD 2 0#8, rx.getD 3 0#8, rx.getD 4 0#8, rx.getD 5 0#8, rx.getD 6 0#8⟩

/-- `frame[0..6]` in index order (R9). -/
def Frame.bytes (f : Frame) : List Byte := [f.b0, f.b1, f.b2, f.b3, f.b4, f.b5, f.b6]

/-- `frame[0..5]`: the bytes under the checksum (R87). -/
def Frame.payload (f : Frame) : List Byte := [f.b0, f.b1, f.b2, f.b3, f.b4, f.b5]

/-! ### The frame unpacker -/

/-- `UnpackT(frame)` (R190), by the shifts and masks on 32 bits that R196 asks for. -/
def unpackT (f : Frame) : RawField :=
  ((((f.b3.setWidth 32 &&& 0x0F#32) <<< 16) ||| (f.b4.setWidth 32 <<< 8) ||| f.b5.setWidth 32)
    &&& 0x000FFFFF#32).setWidth 20

/-- `UnpackH(frame)` (R191), by the shifts on 32 bits that R196 asks for. -/
def unpackH (f : Frame) : RawField :=
  (((f.b1.setWidth 32 <<< 16) ||| (f.b2.setWidth 32 <<< 8) ||| f.b3.setWidth 32) >>> 4).setWidth 20

end Sys2Proof.Machine
end

