-- ==== Sys2Proof/Machine/Flags.lean ====
section
/-! DEFINITION. The status flags and the two checks of a frame (42_validate.md), and the frame builder Pack
of 43_unpack.md R194, which is no operation of the block. -/

namespace Sys2Proof.Machine

/-- BUSY, bit 7 of a status byte (R82, `STATUS_BUSY_BIT`). -/
def busyFlag (s : Byte) : Bool := s[7]

/-- CAL, bit 3 of a status byte (R82, `STATUS_CAL_BIT`). -/
def calFlag (s : Byte) : Bool := s[3]

/-- `StatusCheck(s)` (R170): BUSY before CAL. -/
def statusCheck (s : Byte) : Cause :=
  if busyFlag s then .sensorBusy
  else if calFlag s then .none
  else .notCalibrated

/-- The polynomial of the CRC-8 profile (R93). -/
def crcPoly : Byte := 0x31#8

/-- The initial register of the CRC-8 profile (R93). -/
def crcInit : Byte := 0xFF#8

/-- One round of the inner loop of R171: shift left, and reduce by the polynomial when bit 7 falls out. -/
def crcShift (x : Byte) : Byte := if x[7] then (x <<< 1) ^^^ crcPoly else x <<< 1

/-- `G(x)`, the 8-step inner loop of R171 started from `c = x` (R172). -/
def crcG (x : Byte) : Byte :=
  crcShift (crcShift (crcShift (crcShift (crcShift (crcShift (crcShift (crcShift x)))))))

/-- The outer loop of R171 from a given register value: each byte is XORed in, first to last. -/
def crcFrom (c : Byte) (bytes : List Byte) : Byte := bytes.foldl (fun c b => crcG (c ^^^ b)) c

/-- `CRC8(bytes)` (R171). -/
def crc8 (bytes : List Byte) : Byte := crcFrom crcInit bytes

/-- `FrameCrcOk(frame)` (R173): the CRC over all 7 bytes is 0x00. -/
def frameCrcOk (f : Frame) : Bool := crc8 f.bytes == 0x00#8

/-- `Pack(s, h, t)` (R194): the frame that carries status `s`, humidity `h` and temperature `t`, with its
checksum. It builds frames for claims and tests; the block never runs it. -/
def pack (s : Byte) (h t : RawField) : Frame :=
  let b1 := h.extractLsb' 12 8
  let b2 := h.extractLsb' 4 8
  let b3 := h.extractLsb' 0 4 ++ t.extractLsb' 16 4
  let b4 := t.extractLsb' 8 8
  let b5 := t.extractLsb' 0 8
  ⟨s, b1, b2, b3, b4, b5, crc8 [s, b1, b2, b3, b4, b5]⟩

end Sys2Proof.Machine
end

