-- ==== Sys2Proof/Machine/Convert.lean ====
section
/-! DEFINITION. The converter (44_convert.md). Numbers are computed exactly as an integer times a power of
two and rounded where R210, R211 and R219 round: to nearest, ties to even (R11, R217). The values here are
far inside the normal range (R212), so no rounding overflows; a zero result is +0.0 (R214;
notes/assumptions/11.md). -/

namespace Sys2Proof.Machine

/-- The number `num * 2^exp`. -/
structure Scaled where
  num : Int
  exp : Int
  deriving DecidableEq, Repr

/-- The rational number a `Scaled` stands for, for claims. -/
def Scaled.toRat (x : Scaled) : Rat := x.num * (2 : Rat) ^ x.exp

/-- The exact product `x ⊗ y` (R11). -/
def Scaled.times (x y : Scaled) : Scaled := ⟨x.num * y.num, x.exp + y.exp⟩

/-- The exact difference `x ⊖ y` (R11), on the finer of the two grids. -/
def Scaled.minus (x y : Scaled) : Scaled :=
  let e := min x.exp y.exp
  ⟨x.num * 2 ^ (x.exp - e).toNat - y.num * 2 ^ (y.exp - e).toNat, e⟩

/-- The number of significant bits: 53 or 24. -/
def precision : FloatFormat → Nat
  | .binary64 => 53
  | .binary32 => 24

/-- The width of a bit pattern: 64 or 32. -/
def floatWidth : FloatFormat → Nat
  | .binary64 => 64
  | .binary32 => 32

/-- The exponent bias: 1023 or 127. -/
def expBias : FloatFormat → Nat
  | .binary64 => 1023
  | .binary32 => 127

/-- The exponent of the last place that a number with leading bit `2^top` has in the format. -/
def lastPlace (fmt : FloatFormat) (top : Int) : Int :=
  max top (1 - (expBias fmt : Int)) - ((precision fmt : Int) - 1)

/-- The exponent of the leading bit of a nonzero number. -/
def Scaled.top (x : Scaled) : Int := x.exp + (Nat.log2 x.num.natAbs : Int)

/-- `n / 2^k`, rounded to nearest with ties to even. -/
def divTiesEven (n k : Nat) : Nat :=
  let q := n / 2 ^ k
  let r := n % 2 ^ k
  if 2 * r < 2 ^ k then q
  else if 2 ^ k < 2 * r then q + 1
  else q + q % 2

/-- `RNE64` and `RNE32` (R11): a number that already lies on the format's grid is itself. -/
def roundNearest (fmt : FloatFormat) (x : Scaled) : Scaled :=
  let e := lastPlace fmt x.top
  if e ≤ x.exp then x
  else ⟨x.num.sign * (divTiesEven x.num.natAbs (e - x.exp).toNat : Int), e⟩

/-- The bit pattern of a number that the format represents (R11): sign, biased exponent, fraction. -/
def patternOf (fmt : FloatFormat) (x : Scaled) : Nat :=
  let a := x.num.natAbs
  if a = 0 then 0
  else
    let e := lastPlace fmt x.top
    let m := if e ≤ x.exp then a * 2 ^ (x.exp - e).toNat else a / 2 ^ (e - x.exp).toNat
    let biased := (e + ((precision fmt : Int) - 1) + (expBias fmt : Int)).toNat
    (if x.num < 0 then 2 ^ (floatWidth fmt - 1) else 0) + (biased - 1) * 2 ^ (precision fmt - 1) + m

/-- The number that a finite bit pattern stands for, for claims: the inverse of `patternOf`. -/
def valueOf (fmt : FloatFormat) (w : Nat) : Scaled :=
  let frac := w % 2 ^ (precision fmt - 1)
  let biased := w / 2 ^ (precision fmt - 1) % 2 ^ (floatWidth fmt - precision fmt)
  let a := if biased = 0 then frac else 2 ^ (precision fmt - 1) + frac
  let e : Int := (max biased 1 : Nat) - (expBias fmt : Int) - ((precision fmt : Int) - 1)
  ⟨if w / 2 ^ (floatWidth fmt - 1) % 2 = 1 then -(a : Int) else (a : Int), e⟩

/-- `K_T` and `K_T32`: 200 / 2^20 = 25 × 2^-17 (R210, R219). -/
def scaleT : Scaled := ⟨25, -17⟩

/-- `K_H` and `K_H32`: 100 / 2^20 = 25 × 2^-18 (R211, R219). -/
def scaleH : Scaled := ⟨25, -18⟩

/-- 50.0 (R210, R219). -/
def fifty : Scaled := ⟨50, 0⟩

/-- `f64(n)` and `f32(n)` of a raw field (R11): exact, since n < 2^20. -/
def rawValue (r : RawField) : Scaled := ⟨(r.toNat : Int), 0⟩

/-- The temperature as a number: the two roundings of R210 and R219. -/
def tempNumber (fmt : FloatFormat) (r : RawField) : Scaled :=
  roundNearest fmt ((roundNearest fmt ((rawValue r).times scaleT)).minus fifty)

/-- The humidity as a number: the one rounding of R211 and R219. -/
def humNumber (fmt : FloatFormat) (r : RawField) : Scaled :=
  roundNearest fmt ((rawValue r).times scaleH)

/-- `ConvT` (R210). -/
def convT64 (r : RawField) : BitVec 64 := BitVec.ofNat 64 (patternOf .binary64 (tempNumber .binary64 r))

/-- `ConvH` (R211). -/
def convH64 (r : RawField) : BitVec 64 := BitVec.ofNat 64 (patternOf .binary64 (humNumber .binary64 r))

/-- `ConvT32` (R219). -/
def convT32 (r : RawField) : BitVec 32 := BitVec.ofNat 32 (patternOf .binary32 (tempNumber .binary32 r))

/-- `ConvH32` (R219). -/
def convH32 (r : RawField) : BitVec 32 := BitVec.ofNat 32 (patternOf .binary32 (humNumber .binary32 r))

/-- The value TEMP is given, in FLOAT_FORMAT (R144, R219). -/
def convT : FloatFormat → RawField → FloatReg
  | .binary64, r => .binary64 (convT64 r)
  | .binary32, r => .binary32 (convT32 r)

/-- The value HUM is given, in FLOAT_FORMAT (R144, R219). -/
def convH : FloatFormat → RawField → FloatReg
  | .binary64, r => .binary64 (convH64 r)
  | .binary32, r => .binary32 (convH32 r)

end Sys2Proof.Machine
end

