-- ==== Sys2Proof/Machine/Ops.lean ====
section
/-! DEFINITION. The events every operation is made of: Accept (R22), issue and answer (R30), Complete and
Abort (R232, R233: the block's one way to end an operation, on success and on failure), and the events of
the host, the collaborators and reset. -/

namespace Sys2Proof.Machine

/-- Records an event at a port (R10). -/
def State.emit (s : State) (e : PortEvent) : State := { s with trace := s.trace ++ [e] }

/-- `busy = (fsm ≠ IDLE)` (R23). -/
def State.busy (s : State) : Bool := s.fsm != .idle

/-- `req_ready = (fsm = IDLE)` (R22). -/
def State.reqReady (s : State) : Bool := s.fsm == .idle

/-- `Complete(result, cause)` (R232). `reading` holds TEMP and HUM in the Ok completion of a MEASURE. -/
def complete (r : ResultCode) (c : Cause) (reading : Option (FloatReg × FloatReg)) (s : State) : State :=
  { s with
    result := r
    errCause := c
    temp := (reading.map Prod.fst).getD s.temp
    hum := (reading.map Prod.snd).getD s.hum
    hasReading := reading.isSome || s.hasReading
    done := true
    pend := false
    fsm := .idle
    trace := s.trace ++ [.complete r c] }

/-- `Abort(code)` (R233), for a response with `code ≠ Ok`. -/
def abort (code : ResultCode) (s : State) : State :=
  if code = .timeout then complete .timeout .transport none s else complete .err .transport none s

/-- What Accept does for every `req_op` (R22): the request leaves the port and DONE is cleared. -/
def accept (op : OpCode) (s : State) : State :=
  { s with done := false, requests := s.requests.tail, trace := s.trace ++ [.accept op] }

/-- Accept of INIT or MEASURE: the operation begins in the state `first` (R22). -/
def acceptInto (op : OpCode) (first : Fsm) (s : State) : State := { accept op s with fsm := first }

/-- Accept of a reserved `req_op`: it completes in the same event (R235). -/
def acceptIllegal (op : OpCode) (s : State) : State := complete .err .illegalOp none (accept op s)

/-- The issue event of a request state (R30). -/
def issue (r : PortRequest) (s : State) : State :=
  { s with pend := true, trace := s.trace ++ [.request r] }

/-- The transport's response stands at the bus port (R24). -/
def deliverBusAnswer (code : ResultCode) (rx : List Byte) (s : State) : State :=
  { s with busResp := some ⟨code, rx⟩ }

/-- The delay collaborator's done stands at the delay port (R26). -/
def deliverDelayDone (s : State) : State := { s with delayDone := true }

/-- Takes a bus response off the port (R30). -/
def takeBusAnswer (code : ResultCode) (rx : List Byte) (s : State) : State :=
  { s with pend := false, busResp := none, trace := s.trace ++ [.busAnswer code rx] }

/-- Takes a delay done off the port (R30). -/
def takeDelayDone (s : State) : State :=
  { s with pend := false, delayDone := false, trace := s.trace ++ [.delayDone] }

/-- The answer event of a bus state: the contract of R25 (notes/assumptions/12.md), the transport check of
R233, and for an Ok response the state's own handler. -/
def busAnswer (req : BusReq) (onOk : List Byte → State → State) (resp : BusResp) (s : State) : Outcome :=
  match resp.code with
  | .ok =>
    if resp.rx.length = req.rxLen then .next (onOk resp.rx (takeBusAnswer .ok resp.rx s))
    else .refused .responseLength
  | .err => .next (abort .err (takeBusAnswer .err resp.rx s))
  | .timeout => .next (abort .timeout (takeBusAnswer .timeout resp.rx s))
  | .reserved => .refused .responseCode

/-- The next event of a state that issues a bus request (R30): issue it, or take its response, or, while
there is none, wait without limit (R248; notes/assumptions/10.md). -/
def busState (req : BusReq) (onOk : List Byte → State → State) (s : State) : Outcome :=
  if s.pend then
    match s.busResp with
    | some resp => busAnswer req onOk resp s
    | none => .next s
  else .next (issue (.bus req) s)

/-- The next event of a state that issues a delay request (R30), with its one successor. A delay cannot
fail (R26). -/
def delayState (ms : Millis) (nextFsm : Fsm) (s : State) : Outcome :=
  if s.pend then
    if s.delayDone then .next { takeDelayDone s with fsm := nextFsm } else .next s
  else .next (issue (.delay ms) s)

/-! ### The Sequencer's turn -/

/-- What the Sequencer runs next. -/
inductive Fetched where
  /-- IDLE with no request: nothing (R262). -/
  | nothing
  /-- The instruction whose next event runs. -/
  | instr (i : Instr)
  /-- `fsm` holds a code that has no meaning (R94). -/
  | reservedState
  deriving DecidableEq, Repr

/-- The instruction of the state that `fsm`, the block's program counter (R29), holds: in IDLE the request
at the host port; in a state that sends a wire command, that command; in the others the running operation. -/
def fetch (s : State) : Fetched :=
  match s.fsm with
  | .idle => match s.requests with
    | op :: _ => .instr (decodeHostOp op)
    | [] => .nothing
  | .iPwrWait => .instr .init
  | .iReset => .instr .devSoftReset
  | .iResetWait => .instr .init
  | .iStat1 => .instr .devReadStatus
  | .iCal => .instr .devCalibrate
  | .iCalWait => .instr .init
  | .iStat2 => .instr .devReadStatus
  | .mTrig => .instr .devTrigger
  | .mWait => .instr .measure
  | .mRead => .instr .measure
  | .mEval => .instr .measure
  | .reserved _ => .reservedState

/-! ### The other agents' turns -/

/-- The host presents a request (R22): it waits at the port, unchanged, until it is accepted; one presented
while another waits comes after it. -/
def presentRequest (op : OpCode) (s : State) : State := { s with requests := s.requests ++ [op] }

/-- The value of a host read (R23). RESULT 11 and ERR_CAUSE 111 fault here and nowhere else (93 U10; DESIGN
CHOICE, notes/assumptions/13.md). R41: a model faults a read of TEMP or HUM before the first MEASURE that
completes Ok; D22 and U12 say the same. -/
def readRegister (reg : HostReg) (s : State) : Except Fault HostValue :=
  match reg with
  | .busy => .ok (.flag s.busy)
  | .done => .ok (.flag s.done)
  | .result => if s.result = .reserved then .error .reservedCode else .ok (.result s.result.code)
  | .errCause => if s.errCause = .reserved then .error .reservedCode else .ok (.cause s.errCause.code)
  | .temp => if s.hasReading then .ok (readFloat s.temp) else .error .noReading
  | .hum => if s.hasReading then .ok (readFloat s.hum) else .error .noReading
where
  /-- What a read of TEMP or HUM gives once a MEASURE has completed Ok. -/
  readFloat : FloatReg → HostValue
    | .binary64 b => .binary64 b
    | .binary32 b => .binary32 b

/-- A host read (R23): no register changes. -/
def hostRead (reg : HostReg) (s : State) : Outcome :=
  match readRegister reg s with
  | .ok v => .next (s.emit (.hostRead reg v))
  | .error f => .fault f

/-- An answer to a request that a reset abandoned is passed to no state (R261); one that answers no request
at all is outside the contract (R25; notes/assumptions/7.md). -/
def lateAnswer (s : State) : Outcome :=
  if s.abandoned = 0 then .refused .unsolicitedAnswer else .next { s with abandoned := s.abandoned - 1 }

/-- Reset (R260): every register to its reset value, no parameter changed (R7). A request outstanding is
abandoned (R261); the host port is the host's and stays as the host drives it. -/
def resetEvent (s : State) : State :=
  { State.reset with
    temp := .zero s.params.floatFormat
    hum := .zero s.params.floatFormat
    params := s.params
    requests := s.requests
    abandoned := s.abandoned + (if s.pend then 1 else 0)
    schedule := s.schedule
    trace := s.trace ++ [.reset] }

/-! ### Placing an instruction where the next step runs it -/

/-- Gives the Sequencer the next turn. -/
def giveTurn (s : State) : State :=
  match s.schedule with
  | [] => s
  | turn :: rest => { s with schedule := .sequencer :: turn :: rest }

/-- Presents a request to an idle block, ahead of any other. -/
def placeRequest (op : OpCode) (s : State) : State :=
  { giveTurn s with fsm := .idle, pend := false, requests := op :: s.requests }

/-- Puts the block into the state that sends a wire command, with the default command bytes as its
parameter and the request not issued yet. -/
def placeCommand (fsm : Fsm) (p : Params) (s : State) : State :=
  { giveTurn s with fsm := fsm, pend := false, params := p }

/-- `s` with the instruction `i` where the next step runs it (notes/assumptions/9.md). -/
def placeInstr (i : Instr) (s : State) : State :=
  match i with
  | .init => placeRequest 0b01#2 s
  | .measure => placeRequest 0b10#2 s
  | .illegal00 => placeRequest 0b00#2 s
  | .illegal11 => placeRequest 0b11#2 s
  | .devSoftReset => placeCommand .iReset { s.params with cmdSoftReset := defaultParams.cmdSoftReset } s
  | .devReadStatus => placeCommand .iStat1 { s.params with cmdReadStatus := defaultParams.cmdReadStatus } s
  | .devCalibrate => placeCommand .iCal { s.params with cmdCalibrate := defaultParams.cmdCalibrate } s
  | .devTrigger => placeCommand .mTrig { s.params with cmdTrigger := defaultParams.cmdTrigger } s

end Sys2Proof.Machine
end

