-- ==== Sys2Proof/Machine/Illegal.lean ====
section
/-! DEFINITION. The reserved host operation codes (60_exceptions.md R235). -/

namespace Sys2Proof.Machine

/-- The next event for a reserved `req_op`: in IDLE it is accepted and completes in the same event (R235);
while an operation runs it waits at the port, unchanged (R22). -/
def illegalRequest (op : OpCode) (s : State) : Outcome :=
  match s.fsm with
  | .idle => .next (acceptIllegal op s)
  | .reserved _ => .fault .fsmReserved
  | _ => .next s

/-- `req_op` 00 (R235). -/
def execIllegal00 (s : State) : Outcome := illegalRequest 0b00#2 s

/-- `req_op` 11 (R235). -/
def execIllegal11 (s : State) : Outcome := illegalRequest 0b11#2 s

end Sys2Proof.Machine
end

