-- ==== Sys2Proof/Machine/Init.lean ====
section
/-! DEFINITION. INIT (40_init.md): its state rules R111 to R117, and the meanings of INIT and of the three
wire commands it sends. -/

namespace Sys2Proof.Machine

/-- I_PWR_WAIT (R111). -/
def stateIPwrWait (s : State) : Outcome := delayState tPwrMs .iReset s

/-- I_RESET (R112). -/
def stateIReset (s : State) : Outcome :=
  busState (softResetReq s.params) (fun _ t => { t with fsm := .iResetWait }) s

/-- I_RESET_WAIT (R113). -/
def stateIResetWait (s : State) : Outcome := delayState tRstMs .iStat1 s

/-- The Ok handler of I_STAT1 (R114): `st <- rx[0]`, then the branch on CAL. -/
def onStat1 (rx : List Byte) (t : State) : State :=
  { t with st := statusOf rx, fsm := if calFlag (statusOf rx) then .iCalWait else .iCal }

/-- I_STAT1 (R114). -/
def stateIStat1 (s : State) : Outcome := busState (readStatusReq s.params) onStat1 s

/-- I_CAL (R115). -/
def stateICal (s : State) : Outcome :=
  busState (calibrateReq s.params) (fun _ t => { t with fsm := .iCalWait }) s

/-- I_CAL_WAIT (R116). -/
def stateICalWait (s : State) : Outcome := delayState tCalMs .iStat2 s

/-- The Ok handler of I_STAT2 (R117): `st <- rx[0]`, then the two-way completion on CAL. -/
def onStat2 (rx : List Byte) (t : State) : State :=
  if calFlag (statusOf rx) then complete .ok .none none { t with st := statusOf rx }
  else complete .err .calibrationFailure none { t with st := statusOf rx }

/-- I_STAT2 (R117). -/
def stateIStat2 (s : State) : Outcome := busState (readStatusReq s.params) onStat2 s

/-- INIT (R110): in IDLE it is accepted (R22); in each of its states, that state's next event. While a
MEASURE runs it is not accepted: it waits at the port, unchanged (R22). -/
def execInit (s : State) : Outcome :=
  match s.fsm with
  | .idle => .next (acceptInto 0b01#2 .iPwrWait s)
  | .iPwrWait => stateIPwrWait s
  | .iReset => stateIReset s
  | .iResetWait => stateIResetWait s
  | .iStat1 => stateIStat1 s
  | .iCal => stateICal s
  | .iCalWait => stateICalWait s
  | .iStat2 => stateIStat2 s
  | .mTrig | .mWait | .mRead | .mEval => .next s
  | .reserved _ => .fault .fsmReserved

/-- DEV_SOFT_RESET: the bus WRITE of I_RESET (R112); no other state sends it (R62). -/
def execDevSoftReset (s : State) : Outcome :=
  match s.fsm with
  | .iReset => stateIReset s
  | .reserved _ => .fault .fsmReserved
  | _ => .refused .commandOutOfState

/-- DEV_READ_STATUS: the bus WRITE_THEN_READ of I_STAT1 and I_STAT2 (R114, R117); no other state sends it
(R62). -/
def execDevReadStatus (s : State) : Outcome :=
  match s.fsm with
  | .iStat1 => stateIStat1 s
  | .iStat2 => stateIStat2 s
  | .reserved _ => .fault .fsmReserved
  | _ => .refused .commandOutOfState

/-- DEV_CALIBRATE: the bus WRITE of I_CAL (R115); no other state sends it (R62). -/
def execDevCalibrate (s : State) : Outcome :=
  match s.fsm with
  | .iCal => stateICal s
  | .reserved _ => .fault .fsmReserved
  | _ => .refused .commandOutOfState

end Sys2Proof.Machine
end

