-- ==== Sys2Proof/Machine/Measure.lean ====
section
/-! DEFINITION. MEASURE (41_measure.md): its state rules R141 to R144, and the meanings of MEASURE and of
the wire command it sends. -/

namespace Sys2Proof.Machine

/-- M_TRIG (R141). -/
def stateMTrig (s : State) : Outcome :=
  busState (triggerReq s.params) (fun _ t => { t with fsm := .mWait }) s

/-- M_WAIT (R142). -/
def stateMWait (s : State) : Outcome := delayState tMeasMs .mRead s

/-- M_READ (R143): `frame <- rx`, all at once. -/
def stateMRead (s : State) : Outcome :=
  busState (readFrameReq s.params) (fun rx t => { t with frame := frameOf rx, fsm := .mEval }) s

/-- The last branch of R144: extraction, conversion and the Ok completion with the reading. -/
def completeReading (s : State) : State :=
  complete .ok .none
    (some (convT s.params.floatFormat (unpackT s.frame), convH s.params.floatFormat (unpackH s.frame)))
    { s with rawT := unpackT s.frame, rawH := unpackH s.frame }

/-- M_EVAL (R144), one internal event: the status check, the CRC check, and only then the reading (R176). -/
def evaluate (s : State) : State :=
  if statusCheck s.frame.b0 ≠ .none then complete .err (statusCheck s.frame.b0) none s
  else if frameCrcOk s.frame then completeReading s
  else complete .err .dataCorruption none s

/-- MEASURE (R140): in IDLE it is accepted (R22), whether or not an INIT succeeded (R146); in each of its
states, that state's next event. While an INIT runs it is not accepted: it waits at the port, unchanged
(R22). -/
def execMeasure (s : State) : Outcome :=
  match s.fsm with
  | .idle => .next (acceptInto 0b10#2 .mTrig s)
  | .mTrig => stateMTrig s
  | .mWait => stateMWait s
  | .mRead => stateMRead s
  | .mEval => .next (evaluate s)
  | .iPwrWait | .iReset | .iResetWait | .iStat1 | .iCal | .iCalWait | .iStat2 => .next s
  | .reserved _ => .fault .fsmReserved

/-- DEV_TRIGGER: the bus WRITE of M_TRIG (R141); no other state sends it (R62). -/
def execDevTrigger (s : State) : Outcome :=
  match s.fsm with
  | .mTrig => stateMTrig s
  | .reserved _ => .fault .fsmReserved
  | _ => .refused .commandOutOfState

end Sys2Proof.Machine
end

