-- ==== Sys2Proof/Machine/Dispatch.lean ====
section
/-! DEFINITION. The next event of each instruction. -/

namespace Sys2Proof.Machine

/-- The block's next event of the instruction `i` in the state `s`. -/
def exec (i : Instr) (s : State) : Host.Outcome State Fault Refusal :=
  match i with
  | .init => Sys2Proof.Machine.execInit s
  | .measure => Sys2Proof.Machine.execMeasure s
  | .illegal00 => Sys2Proof.Machine.execIllegal00 s
  | .illegal11 => Sys2Proof.Machine.execIllegal11 s
  | .devSoftReset => Sys2Proof.Machine.execDevSoftReset s
  | .devReadStatus => Sys2Proof.Machine.execDevReadStatus s
  | .devCalibrate => Sys2Proof.Machine.execDevCalibrate s
  | .devTrigger => Sys2Proof.Machine.execDevTrigger s

end Sys2Proof.Machine
end

