-- ==== Sys2Proof/Machine/Turn.lean ====
section
/-! DEFINITION. The turn of each agent (10_state.md R20). -/

namespace Sys2Proof.Machine

/-- The Sequencer's turn: the next event of the instruction it stands at; in IDLE with no request there is
none (R262), and a code of `fsm` that has no meaning faults (R94). -/
def sequencerTurn (s : State) : Host.Outcome State Fault Refusal :=
  match fetch s with
  | .nothing => .next s
  | .instr i => exec i s
  | .reservedState => .fault .fsmReserved

/-- The turn of one agent while the block is within its rules. An answer to an outstanding request is delivered
and handled in one event (R30); an answer with no such request is outside the contract (R25). -/
def agentTurn (turn : Turn) (s : State) : Host.Outcome State Fault Refusal :=
  match turn with
  | .sequencer => sequencerTurn s
  | .request op => .next (presentRequest op s)
  | .hostRead reg => hostRead reg s
  | .busAnswer code rx =>
    if s.busPending then sequencerTurn (deliverBusAnswer code rx s)
    else .refused .unsolicitedAnswer
  | .delayDone =>
    if s.delayPending then sequencerTurn (deliverDelayDone s)
    else .refused .unsolicitedAnswer
  | .lateAnswer => lateAnswer s
  | .reset => .next (resetEvent s)

/-- The turn of one agent. With a code 1100 to 1111 in `fsm` the machine has left the rules, and every turn
faults (R94) but a reset, which may arrive at any time and puts `fsm` back to IDLE (R260;
notes/assumptions/13.md). With RESULT 11 or ERR_CAUSE 111, which no run reaches, 93 U10 asks for a fault "if met":
DESIGN CHOICE, they are met only where the host reads them (`readRegister`), and every other turn there goes
on as in any state (notes/assumptions/13.md). -/
def takeTurn (turn : Turn) (s : State) : Host.Outcome State Fault Refusal :=
  if turn ≠ .reset ∧ 12 ≤ s.fsm.code.toNat then .fault .fsmReserved else agentTurn turn s

end Sys2Proof.Machine
end

