-- ==== Sys2Proof/Machine/Step.lean ====
section
/-! DEFINITION. One step: one agent's turn (10_state.md R20). -/

namespace Sys2Proof.Machine

/-- One step: the first turn of the schedule, or the Sequencer's when none is listed. -/
def step (s : State) : Host.Outcome State Fault Refusal :=
  match s.schedule with
  | [] => takeTurn .sequencer s
  | turn :: rest => takeTurn turn { s with schedule := rest }

/-- `s` with the instruction of a table word where the next step runs it; `s` itself when the word is none. -/
def State.withFetchWord (s : State) (nbits w : Nat) : State :=
  match decodeTableWord nbits w with
  | some i => placeInstr i s
  | none => s

end Sys2Proof.Machine
end

