-- ==== Sys2Proof/Safety.lean ====
section
/-! DEFINITION. What the claims are said in: the invariant of the machine, what two states must share for
the block to behave alike in both (R38), how far an operation still has to go (R29, R248), and the events
that a step adds at the ports (R70). -/

namespace Sys2Proof.Machine

/-- TEMP and HUM both hold a pattern of FLOAT_FORMAT (R37). -/
def readingFits : FloatFormat → FloatReg → FloatReg → Bool
  | .binary64, .binary64 _, .binary64 _ => true
  | .binary32, .binary32 _, .binary32 _ => true
  | _, _, _ => false

/-- The invariant of the machine between events. -/
structure State.Inv (s : State) : Prop where
  /-- `fsm` holds no code 1100 to 1111 (R29, R94). -/
  fsmLegal : s.fsm.code.toNat < 12
  /-- `pend` is 1 only in a state that issues a request (R30). -/
  pendOnRequest : s.pend = true → (portRequest s.params s.fsm).isSome = true
  /-- DONE is 0 while an operation runs (R34). -/
  doneIdle : s.done = true → s.fsm = .idle
  /-- RESULT is never 11 (R90, R94). -/
  resultLegal : s.result ≠ .reserved
  /-- ERR_CAUSE is never 111 (R91, R94). -/
  causeLegal : s.errCause ≠ .reserved
  /-- An Ok RESULT has no cause (R36). -/
  okHasNoCause : s.result = .ok → s.errCause = .none
  /-- A completed operation without a cause is Ok (R36; after reset there is none to describe). -/
  noCauseIsOk : s.done = true → s.errCause = .none → s.result = .ok
  /-- TEMP and HUM (R37). -/
  reading : readingFits s.params.floatFormat s.temp s.hum = true
  /-- No answer is left at a port between events (R30: an answer is delivered and handled in one event). -/
  portsClear : s.busResp = none ∧ s.delayDone = false

/-- What the block's further behaviour may depend on (R38): the state register and `pend`, the parameters,
what the other agents do, and, in M_EVAL, the frame this MEASURE has read. -/
structure State.SameControl (s t : State) : Prop where
  fsm : s.fsm = t.fsm
  pend : s.pend = t.pend
  params : s.params = t.params
  requests : s.requests = t.requests
  busResp : s.busResp = t.busResp
  delayDone : s.delayDone = t.delayDone
  abandoned : s.abandoned = t.abandoned
  schedule : s.schedule = t.schedule
  frame : s.fsm = .mEval → s.frame = t.frame

/-- The port events of `t` that `s` does not have yet. -/
def State.eventsSince (s t : State) : List PortEvent := t.trace.drop s.trace.length

/-- The requests among port events (R24, R26). -/
def requestsIn (events : List PortEvent) : List PortRequest :=
  events.filterMap fun
    | .request r => some r
    | _ => none

/-- How many states an operation can still pass through, counting the one it stands in (R110, R140). -/
def stagesLeft : Fsm → Nat
  | .idle => 0
  | .iPwrWait => 7
  | .iReset => 6
  | .iResetWait => 5
  | .iStat1 => 4
  | .iCal => 3
  | .iCalWait => 2
  | .iStat2 => 1
  | .mTrig => 4
  | .mWait => 3
  | .mRead => 2
  | .mEval => 1
  | .reserved _ => 0

/-- How many events of its own an operation can still take (R248): two for each state left, less the issue
event that has happened. -/
def State.eventsLeft (s : State) : Nat := 2 * stagesLeft s.fsm - (if s.pend then 1 else 0)

/-- The turn that the next step gives. -/
def State.nextTurn (s : State) : Turn := s.schedule.headD .sequencer

/-- The state in which the agent whose turn it is moves: the turn is taken off the schedule. -/
def State.popTurn (s : State) : State := { s with schedule := s.schedule.tail }

/-- The Sequencer waits for an answer that does not come in this turn (R248). -/
def State.Waiting (s : State) : Prop :=
  s.pend = true ∧ (portRequest s.params s.fsm).isSome = true ∧ s.busResp = none ∧ s.delayDone = false

/-- `Outcome(f)` of R152: the result, the cause and, on Ok, the new TEMP and HUM of a MEASURE whose bus
responses are all Ok, as a function of the 7 frame bytes. -/
def measureOutcome (fmt : FloatFormat) (f : Frame) : ResultCode × Cause × Option (FloatReg × FloatReg) :=
  match f.b0[7], f.b0[3], crc8 [f.b0, f.b1, f.b2, f.b3, f.b4, f.b5, f.b6] == 0x00#8 with
  | true, _, _ => (.err, .sensorBusy, none)
  | false, false, _ => (.err, .notCalibrated, none)
  | false, true, false => (.err, .dataCorruption, none)
  | false, true, true => (.ok, .none, some (convT fmt (unpackT f), convH fmt (unpackH f)))

/-- The 7 bytes of an error pattern with the given bits set (R175): bit `8 * k + j` is bit `j` of byte
`k`. -/
def errorPattern (bits : List (Fin 56)) : List Byte :=
  (List.range 7).map fun k =>
    bits.foldr (fun i acc => (if i.val / 8 = k then 1#8 <<< (i.val % 8) else 0#8) ^^^ acc) 0#8

/-- The bytes of a frame with an error pattern on them (R175). -/
def corrupt (m e : List Byte) : List Byte := List.zipWith (· ^^^ ·) m e

/-- The turns of the agents in a MEASURE whose bus requests are all answered Ok, from the accepted request
to the evaluation (R140); `bytes` is what the device sends as the frame. -/
def measureTurns (bytes : List Byte) : List Turn :=
  [.sequencer, .sequencer, .busAnswer .ok [], .sequencer, .delayDone, .sequencer, .busAnswer .ok bytes,
    .sequencer]

/-- The turns of the agents in an INIT whose bus requests are all answered Ok, with the status bytes `s1`
and `s2` (R110); the calibrate command is answered only when the first status has CAL = 0. -/
def initTurns (s1 s2 : Byte) : List Turn :=
  [.sequencer, .sequencer, .delayDone, .sequencer, .busAnswer .ok [], .sequencer, .delayDone,
    .sequencer, .busAnswer .ok [s1]]
  ++ (if calFlag s1 then [] else [.sequencer, .busAnswer .ok []])
  ++ [.sequencer, .delayDone, .sequencer, .busAnswer .ok [s2]]

/-- The port events of a bus request answered Ok. -/
def busEvents (r : BusReq) (rx : List Byte) : List PortEvent := [.request (.bus r), .busAnswer .ok rx]

/-- The port events of a delay. -/
def delayEvents (ms : Millis) : List PortEvent := [.request (.delay ms), .delayDone]

/-- What one more port event makes of the events of the running operation. -/
def opEventsStep (events : List PortEvent) : PortEvent → List PortEvent
  | .accept _ => []
  | .reset => []
  | .hostRead _ _ => events
  | .complete _ _ => events
  | .request r => events ++ [.request r]
  | .busAnswer code rx => events ++ [.busAnswer code rx]
  | .delayDone => events ++ [.delayDone]

/-- The bus and delay events of the running operation, or of the last one when none runs: those since the
last Accept or reset, without the host's reads. -/
def opEvents (trace : List PortEvent) : List PortEvent := trace.foldl opEventsStep []

/-- What INIT does up to its first status read, whatever the device answers (R123). -/
def initHead (p : Params) : List PortEvent :=
  delayEvents 40#16 ++ busEvents (softResetReq p) [] ++ delayEvents 40#16

/-- The calibrate command, sent only when the first status has CAL = 0 (R123). -/
def initCalibrate (p : Params) (s1 : Byte) : List PortEvent :=
  if s1[3] then [] else busEvents (calibrateReq p) []

/-- What INIT does from its first status read to its second delay of calibration (R123). -/
def initMiddle (p : Params) (s1 : Byte) : List PortEvent :=
  busEvents (readStatusReq p) [s1] ++ initCalibrate p s1 ++ delayEvents 10#16

/-- The event sequence of an INIT whose bus responses are all Ok (R123). -/
def initSequence (p : Params) (s1 s2 : Byte) : List PortEvent :=
  initHead p ++ initMiddle p s1 ++ busEvents (readStatusReq p) [s2]

/-- What MEASURE does before its frame read (R140, R148). -/
def measureHead (p : Params) : List PortEvent := busEvents (triggerReq p) [] ++ delayEvents 80#16

/-- The event sequence of a MEASURE whose bus responses are all Ok (R140, R148). -/
def measureSequence (p : Params) (f : Frame) : List PortEvent :=
  measureHead p ++ busEvents (readFrameReq p) f.bytes

/-- The events that an operation standing in `s` had before its state issued its request (R110, R140). -/
def State.SoFar (s : State) (events : List PortEvent) : Prop :=
  match s.fsm with
  | .idle => True
  | .iPwrWait => events = []
  | .iReset => events = delayEvents 40#16
  | .iResetWait => events = delayEvents 40#16 ++ busEvents (softResetReq s.params) []
  | .iStat1 => events = initHead s.params
  | .iCal => ∃ s1 : Byte, s1[3] = false ∧
      events = initHead s.params ++ busEvents (readStatusReq s.params) [s1]
  | .iCalWait => ∃ s1 : Byte,
      events = initHead s.params ++ busEvents (readStatusReq s.params) [s1] ++ initCalibrate s.params s1
  | .iStat2 => ∃ s1 : Byte, events = initHead s.params ++ initMiddle s.params s1
  | .mTrig => events = []
  | .mWait => events = busEvents (triggerReq s.params) []
  | .mRead => events = measureHead s.params
  | .mEval => events = measureSequence s.params s.frame
  | .reserved _ => False

/-- The trace shows the running operation's own sequence, up to its state and its outstanding request. -/
def State.TraceFits (s : State) : Prop :=
  ∃ events, s.SoFar events ∧
    (s.fsm ≠ .idle → opEvents s.trace = events ++
      (if s.pend then ((portRequest s.params s.fsm).map PortEvent.request).toList else []))

end Sys2Proof.Machine
end

