-- ==== Sys2Proof/Certificates/Slice0/Obligations.lean ====
section
/-! DEFINITION. The statements for the provers, from the numbered rules of spec/. -/

open Sys2Proof Sys2Proof.Machine

/-! ### Encodings -/

/-- Decoding the code word of a well-formed instruction gives the instruction back, what decodes re-encodes
to the word that was read (R80, R88), and a wire word of no length of R95 is rejected. That an instruction
whose word is another's too is not well formed, and that such a word decodes to neither (the "only if" of
the first part), is the model's choice (notes/assumptions/4.md): R6 leaves the bytes open and R88 says
nothing of equal ones. -/
def Obligations.DecodeEncodeRoundTrip : Prop :=
  (∀ (p : Params) (i : Instr), decode p (encode p i) = .ok i ↔ i.WellFormed p = true)
  ∧ (∀ (p : Params) (c : Code) (i : Instr), decode p c = .ok i → encode p i = c)
  ∧ (∀ (p : Params) (c : Code), c.lengthOk = false → decode p c = .error .wireLength)

/-- R81 with the map of R80: the decoder of `req_op` uses both bits and is total. -/
def Obligations.HostOpDecoderIsTotal : Prop :=
  (∀ (p : Params) (op : OpCode), decode p (.hostOp op) = .ok (decodeHostOp op)
    ∧ encode p (decodeHostOp op) = .hostOp op)
  ∧ decodeHostOp 0b01#2 = .init ∧ decodeHostOp 0b10#2 = .measure
  ∧ decodeHostOp 0b00#2 = .illegal00 ∧ decodeHostOp 0b11#2 = .illegal11

/-- A few words written out from R80 and R88 decode to what they stand for (the command bytes are R6's
defaults), and a word that no row gives decodes to nothing. -/
def Obligations.TableWordsDecode : Prop :=
  decodeTableWord 8 0b01 = some .init ∧ decodeTableWord 8 0b10 = some .measure
  ∧ decodeTableWord 8 0b11 = some .illegal11
  ∧ decode defaultParams (.wire [0xBA#8]) = .ok .devSoftReset
  ∧ decode defaultParams (.wire [0xBE#8, 0x08#8, 0x00#8]) = .ok .devCalibrate
  ∧ decodeTableWord 24 0xAC3300 = some .devTrigger
  ∧ decodeTableWord 24 0xAC3301 = none

/-- R92: the code of each state and the port request it issues; and every 4-bit value is the code of one
state. -/
def Obligations.StateCodesAndRequests : Prop :=
  (∀ p : Params,
    [Fsm.idle, .iPwrWait, .iReset, .iResetWait, .iStat1, .iCal, .iCalWait, .iStat2, .mTrig, .mWait, .mRead,
      .mEval].map (fun f => (f.code.toNat, portRequest p f))
    = [(0, none), (1, some (.delay 40#16)), (2, some (.bus ⟨.write, p.devAddr, [p.cmdSoftReset], 0⟩)),
      (3, some (.delay 40#16)), (4, some (.bus ⟨.writeThenRead, p.devAddr, [p.cmdReadStatus], 1⟩)),
      (5, some (.bus ⟨.write, p.devAddr, [p.cmdCalibrate.b0, p.cmdCalibrate.b1, p.cmdCalibrate.b2], 0⟩)),
      (6, some (.delay 10#16)), (7, some (.bus ⟨.writeThenRead, p.devAddr, [p.cmdReadStatus], 1⟩)),
      (8, some (.bus ⟨.write, p.devAddr, [p.cmdTrigger.b0, p.cmdTrigger.b1, p.cmdTrigger.b2], 0⟩)),
      (9, some (.delay 80#16)), (10, some (.bus ⟨.read, p.devAddr, [], 7⟩)), (11, none)])
  ∧ (∀ c : BitVec 4, ∃ f : Fsm, f.code = c ∧ ∀ g : Fsm, g.code = c → g = f)

/-- R89, R90, R91: the codes of the bus kinds, the results and the causes; the remaining code of each is its
`reserved` constructor, or for the bus kind is the code of none. -/
def Obligations.PortAndRegisterCodes : Prop :=
  [BusKind.write, .writeThenRead, .read].map BusKind.code = [0b00#2, 0b01#2, 0b10#2]
  ∧ (∀ k : BusKind, k.code ≠ 0b11#2)
  ∧ [ResultCode.ok, .err, .timeout, .reserved].map ResultCode.code = [0b00#2, 0b01#2, 0b10#2, 0b11#2]
  ∧ [Cause.none, .calibrationFailure, .sensorBusy, .notCalibrated, .dataCorruption, .transport, .illegalOp,
      .reserved].map Cause.code
    = [0b000#3, 0b001#3, 0b010#3, 0b011#3, 0b100#3, 0b101#3, 0b110#3, 0b111#3]

/-! ### The step -/

/-- A step runs the instruction the block stands at: the Sequencer's turn runs it as it is, and an answer
is delivered to it in the same event (R20, R30). The second part says which instruction that is (R22, R29,
R92), and what happens where there is none (R262). The last part is R94: with a code 1100 to 1111 in `fsm`, every
turn faults; that a reset still resets is R260's "at any time" (notes/assumptions/13.md). -/
def Obligations.StepRunsFetchedInstruction : Prop :=
  (∀ (s : State) (i : Instr), fetch s = .instr i →
    (s.nextTurn = .sequencer → step s = exec i s.popTurn)
    ∧ (∀ code rx, s.nextTurn = .busAnswer code rx → s.busPending = true →
        step s = exec i { s.popTurn with busResp := some ⟨code, rx⟩ })
    ∧ (s.nextTurn = .delayDone → s.delayPending = true → step s = exec i { s.popTurn with delayDone := true }))
  ∧ (∀ (s : State) (op : OpCode) (rest : List OpCode), s.fsm = .idle → s.requests = op :: rest →
      decode s.params (.hostOp op) = .ok (decodeHostOp op) ∧ fetch s = .instr (decodeHostOp op))
  ∧ (∀ (s : State) (r : BusReq), portRequest s.params s.fsm = some (.bus r) → r.tx ≠ [] →
      ∃ i, fetch s = .instr i ∧ encode s.params i = .wire r.tx)
  ∧ (∀ s : State, s.fsm = .idle → s.requests = [] → s.nextTurn = .sequencer → step s = .next s.popTurn)
  ∧ (∀ (s : State) (low : BitVec 2), s.fsm = .reserved low → s.nextTurn ≠ .reset →
      step s = .fault .fsmReserved)

/-- Placing the word of a row and stepping runs that row's instruction, from any state, and it completes an
event; no register but the ones the placing needs (`fsm`, `pend`, the request, the command's parameter)
is touched. -/
def Obligations.PlacedWordRunsNext : Prop :=
  ∀ (s : State) (nbits w : Nat) (i : Instr), decodeTableWord nbits w = some i →
    ∃ t, t = (s.withFetchWord nbits w).popTurn
      ∧ fetch t = .instr i ∧ step (s.withFetchWord nbits w) = exec i t ∧ (∃ u, exec i t = .next u)
      ∧ encode t.params i = codeOfTableWord nbits w
      ∧ t.pend = false ∧ t.schedule = s.schedule ∧ t.trace = s.trace ∧ t.st = s.st ∧ t.frame = s.frame
      ∧ t.rawT = s.rawT ∧ t.rawH = s.rawH ∧ t.done = s.done ∧ t.result = s.result
      ∧ t.errCause = s.errCause ∧ t.temp = s.temp ∧ t.hum = s.hum ∧ t.hasReading = s.hasReading

/-- R22: a request is accepted in one event, only with `req_valid` and `req_ready`; what Accept does for
each `req_op`; and a request that is not accepted waits, unchanged. That a request presented while another
waits stands behind it is the model's choice (notes/assumptions/6.md). -/
def Obligations.HostRequestPort : Prop :=
  (∀ (s : State) (op : OpCode) (rest : List OpCode),
    s.fsm = .idle → s.requests = op :: rest → s.nextTurn = .sequencer →
      ∃ t, step s = .next t ∧ t.requests = rest ∧ .accept op ∈ s.eventsSince t
        ∧ (op = 0b01#2 → t = { s.popTurn with
            done := false, fsm := .iPwrWait, requests := rest, trace := s.trace ++ [.accept op] })
        ∧ (op = 0b10#2 → t = { s.popTurn with
            done := false, fsm := .mTrig, requests := rest, trace := s.trace ++ [.accept op] })
        ∧ (op = 0b00#2 ∨ op = 0b11#2 → t = { s.popTurn with
            done := true, pend := false, fsm := .idle, result := .err, errCause := .illegalOp,
            requests := rest, trace := s.trace ++ [.accept op] ++ [.complete .err .illegalOp] }))
  ∧ (∀ (s t : State) (op : OpCode), step s = .next t → .accept op ∈ s.eventsSince t →
      s.fsm = .idle ∧ s.requests = op :: t.requests)
  ∧ (∀ s t : State, step s = .next t → s.fsm ≠ .idle → t.requests = s.requests
      ∨ ∃ op, s.nextTurn = .request op ∧ t.requests = s.requests ++ [op])
  ∧ (∀ s : State, s.reqReady = true ↔ s.fsm = .idle)

/-- INIT and MEASURE are accepted from IDLE (R110, R140): the whole next state. -/
def Obligations.OperationsAccepted : Prop :=
  ∀ s : State, s.fsm = .idle →
    exec .init s = .next { s with
      done := false, fsm := .iPwrWait, requests := s.requests.tail, trace := s.trace ++ [.accept 0b01#2] }
    ∧ exec .measure s = .next { s with
      done := false, fsm := .mTrig, requests := s.requests.tail, trace := s.trace ++ [.accept 0b10#2] }

/-- R235: a reserved `req_op` completes in its Accept event, with no bus or delay event, and TEMP and HUM
keep their values: the whole next state. -/
def Obligations.IllegalRequestCompletes : Prop :=
  ∀ s : State, s.fsm = .idle →
    exec .illegal00 s = .next { s with
      done := true, result := .err, errCause := .illegalOp, pend := false, requests := s.requests.tail,
      trace := s.trace ++ [.accept 0b00#2] ++ [.complete .err .illegalOp] }
    ∧ exec .illegal11 s = .next { s with
      done := true, result := .err, errCause := .illegalOp, pend := false, requests := s.requests.tail,
      trace := s.trace ++ [.accept 0b11#2] ++ [.complete .err .illegalOp] }

/-- A host operation whose request comes while another operation runs is not accepted: nothing changes
(R22). -/
def Obligations.RunningOperationKeepsRequestWaiting : Prop :=
  ∀ s : State,
    (s.fsm ∈ [.mTrig, .mWait, .mRead, .mEval] → exec .init s = .next s)
    ∧ (s.fsm ∈ [.iPwrWait, .iReset, .iResetWait, .iStat1, .iCal, .iCalWait, .iStat2] →
        exec .measure s = .next s)
    ∧ (s.fsm ≠ .idle → s.fsm.code.toNat < 12 →
        exec .illegal00 s = .next s ∧ exec .illegal11 s = .next s)

/-- R111, R113, R116, R142: each delay state issues its delay, takes the done, and goes to its one
successor; a delay cannot fail. Whole next states. -/
def Obligations.DelayStates : Prop :=
  ∀ s : State,
    (∀ (i : Instr) (f g : Fsm) (ms : Millis) (code : BitVec 4),
      (i, f, g, ms, code) ∈ [(Instr.init, Fsm.iPwrWait, Fsm.iReset, 40#16, 0b0001#4),
        (.init, .iResetWait, .iStat1, 40#16, 0b0011#4), (.init, .iCalWait, .iStat2, 10#16, 0b0110#4),
        (.measure, .mWait, .mRead, 80#16, 0b1001#4)] →
      s.fsm = f →
        f.code = code
        ∧ (s.pend = false → exec i s = .next { s with
            pend := true, trace := s.trace ++ [.request (.delay ms)] })
        ∧ (s.pend = true → s.delayDone = true → exec i s = .next { s with
            pend := false, delayDone := false, fsm := g, trace := s.trace ++ [.delayDone] }))

/-- R112: I_RESET sends the soft reset command, checks the response and goes to I_RESET_WAIT. -/
def Obligations.SoftResetState : Prop :=
  ∀ s : State, s.fsm = .iReset →
    s.fsm.code = 0b0010#4
    ∧ (s.pend = false → exec .devSoftReset s = .next { s with
        pend := true,
        trace := s.trace ++ [.request (.bus ⟨.write, s.params.devAddr, [s.params.cmdSoftReset], 0⟩)] })
    ∧ (s.pend = true → s.busResp = some ⟨.ok, []⟩ → exec .devSoftReset s = .next { s with
        pend := false, busResp := none, fsm := .iResetWait, trace := s.trace ++ [.busAnswer .ok []] })
    ∧ (∀ code rx, s.pend = true → s.busResp = some ⟨code, rx⟩ → code = .err ∨ code = .timeout →
        exec .devSoftReset s = .next { s with
          pend := false, busResp := none, fsm := .idle, done := true, result := code,
          errCause := .transport, trace := s.trace ++ [.busAnswer code rx] ++ [.complete code .transport] })

/-- R114: I_STAT1 reads the status and branches on CAL; a failed read writes no status. -/
def Obligations.FirstStatusState : Prop :=
  ∀ s : State, s.fsm = .iStat1 →
    s.fsm.code = 0b0100#4
    ∧ (s.pend = false → exec .devReadStatus s = .next { s with
        pend := true,
        trace := s.trace ++
          [.request (.bus ⟨.writeThenRead, s.params.devAddr, [s.params.cmdReadStatus], 1⟩)] })
    ∧ (∀ b : Byte, s.pend = true → s.busResp = some ⟨.ok, [b]⟩ → exec .devReadStatus s = .next { s with
        pend := false, busResp := none, st := b, fsm := if b[3] = false then .iCal else .iCalWait,
        trace := s.trace ++ [.busAnswer .ok [b]] })
    ∧ (∀ code rx, s.pend = true → s.busResp = some ⟨code, rx⟩ → code = .err ∨ code = .timeout →
        exec .devReadStatus s = .next { s with
          pend := false, busResp := none, fsm := .idle, done := true, result := code,
          errCause := .transport, trace := s.trace ++ [.busAnswer code rx] ++ [.complete code .transport] })

/-- R115: I_CAL sends the calibrate command; it is entered only from I_STAT1 on a status with CAL = 0. -/
def Obligations.CalibrateState : Prop :=
  (∀ s : State, s.fsm = .iCal →
    s.fsm.code = 0b0101#4
    ∧ (s.pend = false → exec .devCalibrate s = .next { s with
        pend := true,
        trace := s.trace ++ [.request (.bus ⟨.write, s.params.devAddr,
          [s.params.cmdCalibrate.b0, s.params.cmdCalibrate.b1, s.params.cmdCalibrate.b2], 0⟩)] })
    ∧ (s.pend = true → s.busResp = some ⟨.ok, []⟩ → exec .devCalibrate s = .next { s with
        pend := false, busResp := none, fsm := .iCalWait, trace := s.trace ++ [.busAnswer .ok []] })
    ∧ (∀ code rx, s.pend = true → s.busResp = some ⟨code, rx⟩ → code = .err ∨ code = .timeout →
        exec .devCalibrate s = .next { s with
          pend := false, busResp := none, fsm := .idle, done := true, result := code,
          errCause := .transport, trace := s.trace ++ [.busAnswer code rx] ++ [.complete code .transport] }))
  ∧ (∀ s t : State, step s = .next t → t.fsm = .iCal → s.fsm ≠ .iCal →
      s.fsm = .iStat1 ∧ t.st[3] = false)

/-- R117: I_STAT2 reads the status and completes by its CAL bit alone. -/
def Obligations.SecondStatusState : Prop :=
  ∀ s : State, s.fsm = .iStat2 →
    s.fsm.code = 0b0111#4
    ∧ (s.pend = false → exec .devReadStatus s = .next { s with
        pend := true,
        trace := s.trace ++
          [.request (.bus ⟨.writeThenRead, s.params.devAddr, [s.params.cmdReadStatus], 1⟩)] })
    ∧ (∀ b : Byte, s.pend = true → s.busResp = some ⟨.ok, [b]⟩ →
        (b[3] = false → exec .devReadStatus s = .next { s with
          pend := false, busResp := none, st := b, fsm := .idle, done := true, result := .err,
          errCause := .calibrationFailure,
          trace := s.trace ++ [.busAnswer .ok [b]] ++ [.complete .err .calibrationFailure] })
        ∧ (b[3] = true → exec .devReadStatus s = .next { s with
          pend := false, busResp := none, st := b, fsm := .idle, done := true, result := .ok,
          errCause := .none, trace := s.trace ++ [.busAnswer .ok [b]] ++ [.complete .ok .none] }))
    ∧ (∀ code rx, s.pend = true → s.busResp = some ⟨code, rx⟩ → code = .err ∨ code = .timeout →
        exec .devReadStatus s = .next { s with
          pend := false, busResp := none, fsm := .idle, done := true, result := code,
          errCause := .transport, trace := s.trace ++ [.busAnswer code rx] ++ [.complete code .transport] })

/-- R141: M_TRIG sends the trigger command, checks the response and goes to M_WAIT; MEASURE enters it at
once, with no status read first. -/
def Obligations.TriggerState : Prop :=
  (∀ s : State, s.fsm = .mTrig →
    s.fsm.code = 0b1000#4
    ∧ (s.pend = false → exec .devTrigger s = .next { s with
        pend := true,
        trace := s.trace ++ [.request (.bus ⟨.write, s.params.devAddr,
          [s.params.cmdTrigger.b0, s.params.cmdTrigger.b1, s.params.cmdTrigger.b2], 0⟩)] })
    ∧ (s.pend = true → s.busResp = some ⟨.ok, []⟩ → exec .devTrigger s = .next { s with
        pend := false, busResp := none, fsm := .mWait, trace := s.trace ++ [.busAnswer .ok []] })
    ∧ (∀ code rx, s.pend = true → s.busResp = some ⟨code, rx⟩ → code = .err ∨ code = .timeout →
        exec .devTrigger s = .next { s with
          pend := false, busResp := none, fsm := .idle, done := true, result := code,
          errCause := .transport, trace := s.trace ++ [.busAnswer code rx] ++ [.complete code .transport] }))
  ∧ (∀ s : State, s.fsm = .idle →
      ∃ t, exec .measure s = .next t ∧ t.fsm = .mTrig ∧ requestsIn (s.eventsSince t) = [])

/-- R143: M_READ reads 7 bytes into the frame, all at once and in the order received; a failed read leaves
the frame as it was. -/
def Obligations.FrameReadState : Prop :=
  ∀ s : State, s.fsm = .mRead →
    s.fsm.code = 0b1010#4
    ∧ (s.pend = false → exec .measure s = .next { s with
        pend := true, trace := s.trace ++ [.request (.bus ⟨.read, s.params.devAddr, [], 7⟩)] })
    ∧ (∀ r0 r1 r2 r3 r4 r5 r6 : Byte, s.pend = true → s.busResp = some ⟨.ok, [r0, r1, r2, r3, r4, r5, r6]⟩ →
        exec .measure s = .next { s with
          pend := false, busResp := none, frame := ⟨r0, r1, r2, r3, r4, r5, r6⟩, fsm := .mEval,
          trace := s.trace ++ [.busAnswer .ok [r0, r1, r2, r3, r4, r5, r6]] })
    ∧ (∀ code rx, s.pend = true → s.busResp = some ⟨code, rx⟩ → code = .err ∨ code = .timeout →
        exec .measure s = .next { s with
          pend := false, busResp := none, fsm := .idle, done := true, result := code,
          errCause := .transport, trace := s.trace ++ [.busAnswer code rx] ++ [.complete code .transport] })

/-- R144: M_EVAL, one event: the status check, then the CRC over the 7 bytes, and only then extraction,
conversion and the Ok completion, which writes TEMP and HUM. -/
def Obligations.EvaluationState : Prop :=
  ∀ s : State, s.fsm = .mEval →
    s.fsm.code = 0b1011#4
    ∧ (s.frame.b0[7] = true → exec .measure s = .next { s with
        pend := false, fsm := .idle, done := true, result := .err, errCause := .sensorBusy,
        trace := s.trace ++ [.complete .err .sensorBusy] })
    ∧ (s.frame.b0[7] = false → s.frame.b0[3] = false → exec .measure s = .next { s with
        pend := false, fsm := .idle, done := true, result := .err, errCause := .notCalibrated,
        trace := s.trace ++ [.complete .err .notCalibrated] })
    ∧ (s.frame.b0[7] = false → s.frame.b0[3] = true → crc8 s.frame.bytes ≠ 0x00#8 →
        exec .measure s = .next { s with
          pend := false, fsm := .idle, done := true, result := .err, errCause := .dataCorruption,
          trace := s.trace ++ [.complete .err .dataCorruption] })
    ∧ (s.frame.b0[7] = false → s.frame.b0[3] = true → crc8 s.frame.bytes = 0x00#8 →
        exec .measure s = .next { s with
          pend := false, fsm := .idle, done := true, result := .ok, errCause := .none,
          rawT := unpackT s.frame, rawH := unpackH s.frame,
          temp := convT s.params.floatFormat (unpackT s.frame),
          hum := convH s.params.floatFormat (unpackH s.frame), hasReading := true,
          trace := s.trace ++ [.complete .ok .none] })

/-- A wire command's meaning stops by name in a state that does not send it (R62: no other state does), and
every meaning faults when `fsm` holds a code 1100 to 1111 (R94). -/
def Obligations.StopsByName : Prop :=
  ∀ s : State,
    (∀ (i : Instr) (low : BitVec 2), s.fsm = .reserved low → exec i s = .fault .fsmReserved)
    ∧ (s.fsm.code.toNat < 12 →
      (s.fsm ≠ .iReset → exec .devSoftReset s = .refused .commandOutOfState)
      ∧ (s.fsm ≠ .iStat1 → s.fsm ≠ .iStat2 → exec .devReadStatus s = .refused .commandOutOfState)
      ∧ (s.fsm ≠ .iCal → exec .devCalibrate s = .refused .commandOutOfState)
      ∧ (s.fsm ≠ .mTrig → exec .devTrigger s = .refused .commandOutOfState))

/-! ### Completion and failure -/

/-- R233: at every bus state, a response that is Err or Timeout ends the operation with that result and
TRANSPORT, in one event; neither `st` nor `frame` is written and no further request is issued. -/
def Obligations.FailedTransactionAborts : Prop :=
  ∀ (s : State) (code : ResultCode) (rx : List Byte), s.busPending = true →
    s.nextTurn = .busAnswer code rx → code = .err ∨ code = .timeout →
      step s = .next { s.popTurn with
        busResp := none, pend := false, fsm := .idle, done := true, result := code,
        errCause := .transport, trace := s.trace ++ [.busAnswer code rx] ++ [.complete code .transport] }

/-- R234: only a transport that answers Timeout makes the block complete with Timeout. -/
def Obligations.TimeoutOnlyFromTransport : Prop :=
  ∀ s t : State, s.Inv → step s = .next t →
    (∀ c, .complete .timeout c ∈ s.eventsSince t →
      c = .transport ∧ s.busPending = true ∧ ∃ rx, s.nextTurn = .busAnswer .timeout rx)
    ∧ (t.result = .timeout → s.result = .timeout ∨ .complete .timeout .transport ∈ s.eventsSince t)

/-- R25: a response outside the contract is refused: one that answers no outstanding request, an Ok one
that does not carry `rx_len` bytes, and one whose code is none of the three. (Where `fsm` holds a code 1100
to 1111, R94 has the machine fault instead.) -/
def Obligations.ContractBreachRefused : Prop :=
  ∀ (s : State) (code : ResultCode) (rx : List Byte), s.nextTurn = .busAnswer code rx →
    (s.fsm.code.toNat < 12 → s.busPending = false → step s = .refused .unsolicitedAnswer)
    ∧ (∀ r, s.pend = true → portRequest s.params s.fsm = some (.bus r) →
        (code = .ok → rx.length ≠ r.rxLen → step s = .refused .responseLength)
        ∧ (code = .reserved → step s = .refused .responseCode))

/-- R230: every completion of the block is one of those of the table, in the state the table names. -/
def Obligations.CompletionsAreTheTaxonomy : Prop :=
  ∀ (s t : State) (r : ResultCode) (c : Cause), s.Inv → step s = .next t → .complete r c ∈ s.eventsSince t →
    (r = .err ∧ c = .calibrationFailure ∧ s.fsm = .iStat2 ∧ t.st[3] = false)
    ∨ (r = .err ∧ c = .sensorBusy ∧ s.fsm = .mEval ∧ s.frame.b0[7] = true)
    ∨ (r = .err ∧ c = .notCalibrated ∧ s.fsm = .mEval ∧ s.frame.b0[7] = false
        ∧ s.frame.b0[3] = false)
    ∨ (r = .err ∧ c = .dataCorruption ∧ s.fsm = .mEval ∧ s.frame.b0[7] = false
        ∧ s.frame.b0[3] = true ∧ crc8 s.frame.bytes ≠ 0x00#8)
    ∨ (c = .transport ∧ (r = .err ∨ r = .timeout) ∧ s.busPending = true
        ∧ ∃ rx, s.nextTurn = .busAnswer r rx)
    ∨ (r = .err ∧ c = .illegalOp ∧ s.fsm = .idle ∧ (.accept 0b00#2 ∈ s.eventsSince t
        ∨ .accept 0b11#2 ∈ s.eventsSince t))
    ∨ (r = .ok ∧ c = .none ∧ s.fsm = .iStat2 ∧ t.st[3] = true)
    ∨ (r = .ok ∧ c = .none ∧ s.fsm = .mEval ∧ s.frame.b0[7] = false
        ∧ s.frame.b0[3] = true ∧ crc8 s.frame.bytes = 0x00#8)

/-- R232, R270: the result registers change only in the one event of a Complete (or at reset), which leaves
DONE = 1, `pend` = 0 and IDLE. -/
def Obligations.ResultsChangeOnlyAtComplete : Prop :=
  ∀ s t : State, step s = .next t → s.nextTurn ≠ .reset →
    (t.result ≠ s.result ∨ t.errCause ≠ s.errCause ∨ t.temp ≠ s.temp ∨ t.hum ≠ s.hum
      ∨ t.hasReading ≠ s.hasReading ∨ (t.done = true ∧ s.done = false)) →
      .complete t.result t.errCause ∈ s.eventsSince t ∧ t.done = true ∧ t.pend = false ∧ t.fsm = .idle

/-- R147: TEMP and HUM are written only by the Ok completion of a MEASURE, both in one event, with the
conversions of the frame's two fields. -/
def Obligations.ReadingWrittenOnlyByOkMeasure : Prop :=
  ∀ s t : State, step s = .next t → s.nextTurn ≠ .reset →
    t.temp ≠ s.temp ∨ t.hum ≠ s.hum ∨ t.hasReading ≠ s.hasReading →
    s.fsm = .mEval ∧ .complete .ok .none ∈ s.eventsSince t ∧ t.hasReading = true
      ∧ t.temp = convT s.params.floatFormat (unpackT s.frame)
      ∧ t.hum = convH s.params.floatFormat (unpackH s.frame)

/-! ### Frames -/

/-- The frame of INIT, DEV_SOFT_RESET, DEV_READ_STATUS and DEV_CALIBRATE (R110, R121): no register but
`fsm`, `pend`, `st`, DONE, RESULT and ERR_CAUSE changes; the frame buffer, the raw fields, TEMP, HUM and the
parameters are unchanged. DONE, RESULT and ERR_CAUSE change only at Accept and Complete, and `st` only by a
status read. -/
def Obligations.InitFrame : Prop :=
  ∀ (i : Instr) (s t : State), i ∈ [.init, .devSoftReset, .devReadStatus, .devCalibrate] →
    exec i s = .next t →
      t.frame = s.frame ∧ t.rawT = s.rawT ∧ t.rawH = s.rawH ∧ t.temp = s.temp ∧ t.hum = s.hum
      ∧ t.hasReading = s.hasReading
      ∧ t.params = s.params ∧ t.schedule = s.schedule ∧ t.abandoned = s.abandoned
      ∧ (t.fsm ≠ .idle → t.result = s.result ∧ t.errCause = s.errCause)
      ∧ (s.fsm ≠ .idle → t.requests = s.requests ∧ (t.fsm ≠ .idle → t.done = s.done))
      ∧ (s.fsm ≠ .iStat1 → s.fsm ≠ .iStat2 → t.st = s.st)

/-- The frame of MEASURE and DEV_TRIGGER (R140): `st` and the parameters never change; the frame buffer
changes only by the frame read; the raw fields, TEMP and HUM only by the evaluation; RESULT, ERR_CAUSE and
DONE only at Accept and Complete. -/
def Obligations.MeasureFrame : Prop :=
  ∀ (i : Instr) (s t : State), i ∈ [.measure, .devTrigger] → exec i s = .next t →
    t.st = s.st ∧ t.params = s.params ∧ t.schedule = s.schedule ∧ t.abandoned = s.abandoned
    ∧ (s.fsm ≠ .mRead → t.frame = s.frame)
    ∧ (s.fsm ≠ .mEval → t.rawT = s.rawT ∧ t.rawH = s.rawH ∧ t.temp = s.temp ∧ t.hum = s.hum
        ∧ t.hasReading = s.hasReading)
    ∧ (t.fsm ≠ .idle → t.result = s.result ∧ t.errCause = s.errCause)
    ∧ (s.fsm ≠ .idle → t.requests = s.requests ∧ (t.fsm ≠ .idle → t.done = s.done))

/-- The frame of the two reserved codes (R235): only DONE, RESULT, ERR_CAUSE, `pend` and the request at the
port change. -/
def Obligations.IllegalFrame : Prop :=
  ∀ (i : Instr) (s t : State), i ∈ [.illegal00, .illegal11] → exec i s = .next t →
    t.fsm = s.fsm ∧ t.st = s.st ∧ t.frame = s.frame ∧ t.rawT = s.rawT ∧ t.rawH = s.rawH ∧ t.temp = s.temp
    ∧ t.hum = s.hum ∧ t.hasReading = s.hasReading ∧ t.params = s.params ∧ t.schedule = s.schedule ∧ t.abandoned = s.abandoned
    ∧ t.busResp = s.busResp ∧ t.delayDone = s.delayDone ∧ requestsIn (s.eventsSince t) = []

/-- R7: no operation, response or host action changes a parameter, and neither does reset. -/
def Obligations.ParametersNeverChange : Prop :=
  ∀ s t : State, step s = .next t → t.params = s.params

/-! ### Reset and the host -/

/-- R40: the registers whose reset value the spec gives, and that TEMP and HUM have no value to read. -/
def Obligations.ResetValues : Prop :=
  State.reset.fsm.code = 0b0000#4 ∧ State.reset.fsm = .idle ∧ State.reset.pend = false
  ∧ State.reset.done = false ∧ State.reset.result.code = 0b01#2 ∧ State.reset.result = .err
  ∧ State.reset.errCause.code = 0b000#3 ∧ State.reset.errCause = .none
  ∧ State.reset.hasReading = false

/-- R260: reset may arrive in any state and puts every register in its reset value, in one event; no
parameter changes. (What `st`, `frame`, `raw_t`, `raw_h`, TEMP and HUM hold then is left open by the rule and
here; TEMP and HUM have no value to read.) -/
def Obligations.ResetEvent : Prop :=
  ∀ s : State, s.nextTurn = .reset → ∃ t, step s = .next t
    ∧ t.fsm = .idle ∧ t.pend = false ∧ t.done = false ∧ t.result = .err ∧ t.errCause = .none
    ∧ t.hasReading = false ∧ t.params = s.params ∧ s.eventsSince t = [.reset]

/-- R261: a reset during an operation abandons it: there is no completion, no request is outstanding after
it, and an answer to the abandoned request is passed to no state. That a late answer is a turn of its own
which only counts down, and that the host port stays as the host drives it, are the model's choices
(notes/assumptions/6.md and 7.md). -/
def Obligations.ResetAbandonsTheOperation : Prop :=
  (∀ s t : State, s.nextTurn = .reset → step s = .next t →
    (∀ r c, .complete r c ∉ s.eventsSince t) ∧ t.busPending = false ∧ t.delayPending = false
    ∧ t.requests = s.requests ∧ t.abandoned = s.abandoned + (if s.pend then 1 else 0))
  ∧ (∀ s : State, s.fsm.code.toNat < 12 → s.nextTurn = .lateAnswer → s.abandoned ≠ 0 →
      step s = .next { s.popTurn with abandoned := s.abandoned - 1 })

/-- R23: the host-visible outputs can be read at any time, a read has no side effect on any register, and
the host writes nothing except a request. (Where `fsm` holds a code 1100 to 1111 the machine faults, R94;
where TEMP and HUM have no value yet, a read of one faults, R41.) -/
def Obligations.HostReadsAndWrites : Prop :=
  (∀ (s : State) (reg : HostReg) (v : HostValue), s.fsm.code.toNat < 12 → s.nextTurn = .hostRead reg →
    readRegister reg s = .ok v →
    step s = .next { s.popTurn with trace := s.trace ++ [.hostRead reg v] })
  ∧ (∀ (s : State) (op : OpCode), s.fsm.code.toNat < 12 → s.nextTurn = .request op →
      ∃ requests, step s = .next { s.popTurn with requests := requests }
        ∧ (s.requests = [] → requests = [op]))
  ∧ (∀ s : State, readRegister .busy s = .ok (.flag (decide (s.fsm ≠ .idle)))
      ∧ readRegister .done s = .ok (.flag s.done)
      ∧ (s.result ≠ .reserved → readRegister .result s = .ok (.result s.result.code))
      ∧ (s.errCause ≠ .reserved → readRegister .errCause s = .ok (.cause s.errCause.code))
      ∧ (s.hasReading = true →
          (∀ b, (s.temp = .binary64 b → readRegister .temp s = .ok (.binary64 b))
            ∧ (s.hum = .binary64 b → readRegister .hum s = .ok (.binary64 b)))
          ∧ (∀ b, (s.temp = .binary32 b → readRegister .temp s = .ok (.binary32 b))
            ∧ (s.hum = .binary32 b → readRegister .hum s = .ok (.binary32 b)))))

/-- R41: a host read of TEMP or HUM before the first MEASURE that completes Ok faults; and it is the only
fault of the machine from a state that meets its invariant, whatever the agents do. -/
def Obligations.OnlyFaultIsAReadingWithoutValue : Prop :=
  (∀ s : State, s.fsm.code.toNat < 12 → s.hasReading = false →
    s.nextTurn = .hostRead .temp ∨ s.nextTurn = .hostRead .hum → step s = .fault .noReading)
  ∧ (∀ (s : State) (f : Fault), s.Inv → step s = .fault f →
      f = .noReading ∧ s.hasReading = false
      ∧ (s.nextTurn = .hostRead .temp ∨ s.nextTurn = .hostRead .hum))

/-- A run is refused only at an answer outside the contract of R25 and R26: an answer to no request, an Ok
response whose length is not the outstanding request's `rx_len`, or a response code that is none of the
three. No operation, host action or reset is ever refused. That an unrequested delay done is refused under
the same name as an unrequested bus response, and that a late answer is refused when no request is
abandoned, are notes/assumptions/12.md and 7.md. -/
def Obligations.OnlyBreachesAreRefused : Prop :=
  ∀ (s : State) (r : Refusal), s.Inv → step s = .refused r →
    (r = .unsolicitedAnswer ∧ ((∃ code rx, s.nextTurn = .busAnswer code rx ∧ s.busPending = false)
        ∨ (s.nextTurn = .delayDone ∧ s.delayPending = false)
        ∨ (s.nextTurn = .lateAnswer ∧ s.abandoned = 0)))
    ∨ (r = .responseLength ∧ s.busPending = true ∧ ∃ req rx, s.nextTurn = .busAnswer .ok rx
        ∧ portRequest s.params s.fsm = some (.bus req) ∧ rx.length ≠ req.rxLen)
    ∨ (r = .responseCode ∧ s.busPending = true ∧ ∃ rx, s.nextTurn = .busAnswer .reserved rx)

/-! ### Ports -/

/-- R62: a bus request that a step issues is one of the five of the table, in the state that issues it, and
every one carries DEV_ADDR; the calibrate command is issued only when CAL was 0. -/
def Obligations.OnlyTheseTransactions : Prop :=
  (∀ (s t : State) (r : BusReq), step s = .next t → .request (.bus r) ∈ s.eventsSince t →
    (s.fsm = .iReset ∧ r = ⟨.write, s.params.devAddr, [s.params.cmdSoftReset], 0⟩)
    ∨ ((s.fsm = .iStat1 ∨ s.fsm = .iStat2)
        ∧ r = ⟨.writeThenRead, s.params.devAddr, [s.params.cmdReadStatus], 1⟩)
    ∨ (s.fsm = .iCal ∧ r = ⟨.write, s.params.devAddr,
        [s.params.cmdCalibrate.b0, s.params.cmdCalibrate.b1, s.params.cmdCalibrate.b2], 0⟩)
    ∨ (s.fsm = .mTrig ∧ r = ⟨.write, s.params.devAddr,
        [s.params.cmdTrigger.b0, s.params.cmdTrigger.b1, s.params.cmdTrigger.b2], 0⟩)
    ∨ (s.fsm = .mRead ∧ r = ⟨.read, s.params.devAddr, [], 7⟩))
  ∧ (∀ s t : State, step s = .next t → t.fsm = .iCal → s.fsm ≠ .iCal →
      s.fsm = .iStat1 ∧ ∃ b rx, .busAnswer .ok (b :: rx) ∈ s.eventsSince t ∧ b[3] = false)

/-- R21, R30: at most one request is outstanding. A request is issued only while none is, by the state that
`fsm` names, and makes it outstanding; an answer is taken only while one is, and clears it; no step does
both. -/
def Obligations.OneRequestOutstanding : Prop :=
  ∀ s t : State, s.Inv → step s = .next t → s.nextTurn ≠ .reset →
    (∀ r, .request r ∈ s.eventsSince t →
      s.pend = false ∧ portRequest s.params s.fsm = some r ∧ t.pend = true ∧ t.fsm = s.fsm
      ∧ s.eventsSince t = [.request r])
    ∧ (∀ code rx, .busAnswer code rx ∈ s.eventsSince t →
        s.busPending = true ∧ s.nextTurn = .busAnswer code rx ∧ t.pend = false)
    ∧ (.delayDone ∈ s.eventsSince t → s.delayPending = true ∧ s.nextTurn = .delayDone ∧ t.pend = false)
    ∧ ¬ (s.busPending = true ∧ s.delayPending = true)

/-- R70: the events are totally ordered: a step only adds events after those there were. -/
def Obligations.EventsOnlyAppend : Prop :=
  ∀ s t : State, step s = .next t → t.trace = s.trace ++ s.eventsSince t

/-- R248, R268: while an answer is outstanding and does not come, the Sequencer stays as it is; nothing
times out, retries or cancels. -/
def Obligations.WaitsWithoutLimit : Prop :=
  ∀ s : State, s.Waiting → s.nextTurn = .sequencer → step s = .next s.popTurn

/-! ### Validation, unpacking, conversion -/

/-- R170. -/
def Obligations.StatusCheckFunction : Prop :=
  ∀ s : Byte,
    (s[7] = true → statusCheck s = .sensorBusy)
    ∧ (s[7] = false → s[3] = false → statusCheck s = .notCalibrated)
    ∧ (s[7] = false → s[3] = true → statusCheck s = .none)

/-- R83, R118: the block reads only bits 7 and 3 of a status byte, and INIT only bit 3: two Ok status reads
that agree in bit 3 lead an INIT to the same states, results and causes, and two bytes that agree in both
bits pass the status check alike. -/
def Obligations.OnlyTwoStatusBitsMatter : Prop :=
  (∀ (a b : Byte), a[7] = b[7] → a[3] = b[3] → statusCheck a = statusCheck b)
  ∧ (∀ (s t u : State) (a b : Byte), s.fsm = .iStat1 ∨ s.fsm = .iStat2 → s.pend = true →
      a[3] = b[3] →
      exec .devReadStatus { s with busResp := some ⟨.ok, [a]⟩ } = .next t →
      exec .devReadStatus { s with busResp := some ⟨.ok, [b]⟩ } = .next u →
        { t with st := 0#8, trace := [] } = { u with st := 0#8, trace := [] })

/-- R172. -/
def Obligations.CrcByteStep : Prop :=
  (∀ (m : List Byte) (b : Byte), crc8 (m ++ [b]) = crcG (crc8 m ^^^ b))
  ∧ crc8 [] = 0xFF#8
  ∧ (∀ x y : Byte, crcG (x ^^^ y) = crcG x ^^^ crcG y)
  ∧ crcG 0#8 = 0#8
  ∧ Function.Bijective crcG
  ∧ (List.range 16).map (fun x => (crcG (BitVec.ofNat 8 x)).toNat)
    = [0x00, 0x31, 0x62, 0x53, 0xC4, 0xF5, 0xA6, 0x97, 0xB9, 0x88, 0xDB, 0xEA, 0x7D, 0x4C, 0x1F, 0x2E]
  ∧ (∀ table : Byte → Byte, (∀ x, table x = crcG x) →
      ∀ m : List Byte, crc8 m = m.foldl (fun c b => table (c ^^^ b)) 0xFF#8)

/-- R174: the check over all 7 bytes passes exactly when byte 6 is the CRC of bytes 0 to 5. -/
def Obligations.CrcCheckIsChecksumMatch : Prop :=
  ∀ f : Frame, frameCrcOk f = true ↔ crc8 [f.b0, f.b1, f.b2, f.b3, f.b4, f.b5] = f.b6

/-- R175: whether an error is detected depends only on the error, and every error of weight 1, 2 or 3 in the
56 bits of a frame is; one of weight 4 may pass. -/
def Obligations.CrcDetectsUpToThreeBitErrors : Prop :=
  (∀ m e : List Byte, m.length = 7 → e.length = 7 → crc8 (corrupt m e) = crc8 m ^^^ crcFrom 0x00#8 e)
  ∧ (∀ bits : List (Fin 56), bits.Nodup → 1 ≤ bits.length → bits.length ≤ 3 →
      crcFrom 0x00#8 (errorPattern bits) ≠ 0x00#8
      ∧ ∀ f : Frame, frameCrcOk f = true → crc8 (corrupt f.bytes (errorPattern bits)) ≠ 0x00#8)
  ∧ (∃ bits : List (Fin 56), bits.Nodup ∧ bits.length = 4 ∧ crcFrom 0x00#8 (errorPattern bits) = 0x00#8)

/-- R190, R191: each field is the concatenation of its bytes and nibble. -/
def Obligations.UnpackedFields : Prop :=
  ∀ f : Frame,
    unpackT f = f.b3.extractLsb' 0 4 ++ f.b4 ++ f.b5
    ∧ unpackH f = f.b1 ++ f.b2 ++ f.b3.extractLsb' 4 4

/-- R193: each bit of bytes 1 to 5 goes into exactly one bit of one field, and bytes 0 and 6 into none:
the two fields determine the five bytes and are determined by them. -/
def Obligations.LanesPartition : Prop :=
  ∀ f g : Frame, (unpackT f = unpackT g ∧ unpackH f = unpackH g) ↔
    (f.b1 = g.b1 ∧ f.b2 = g.b2 ∧ f.b3 = g.b3 ∧ f.b4 = g.b4 ∧ f.b5 = g.b5)

/-- R195: a packed frame unpacks to its fields and passes the CRC check; if its status has BUSY = 0 and
CAL = 1, a MEASURE that reads it completes Ok with the converted fields, which in binary64 are exactly the
values of the two formulas. -/
def Obligations.PackRoundTrip : Prop :=
  ∀ (b : Byte) (h t : RawField),
    unpackH (pack b h t) = h ∧ unpackT (pack b h t) = t ∧ frameCrcOk (pack b h t) = true
    ∧ (b[7] = false → b[3] = true →
        ∀ s : State, s.fsm = .mEval → s.frame = pack b h t →
          ∃ u, exec .measure s = .next u ∧ u.done = true ∧ u.result = .ok ∧ u.errCause = .none
            ∧ u.hasReading = true
            ∧ u.temp = convT s.params.floatFormat t ∧ u.hum = convH s.params.floatFormat h
            ∧ (s.params.floatFormat = .binary64 → ∃ wt wh : BitVec 64,
                u.temp = .binary64 wt ∧ u.hum = .binary64 wh
                ∧ (valueOf .binary64 wt.toNat).toRat = (t.toNat : Rat) * 200 / 2 ^ 20 - 50
                ∧ (valueOf .binary64 wh.toNat).toRat = (h.toNat : Rat) * 100 / 2 ^ 20))

/-- R212: in binary64 no rounding changes a value, and the patterns stand for the exact values of the
formulas. -/
def Obligations.Binary64IsExact : Prop :=
  ∀ r : RawField,
    roundNearest .binary64 ((rawValue r).times scaleT) = (rawValue r).times scaleT
    ∧ roundNearest .binary64 ((rawValue r).times scaleH) = (rawValue r).times scaleH
    ∧ tempNumber .binary64 r = ((rawValue r).times scaleT).minus fifty
    ∧ (valueOf .binary64 (convT64 r).toNat).toRat = (25 * (r.toNat : Rat) - 6553600) / 2 ^ 17
    ∧ (valueOf .binary64 (convH64 r).toNat).toRat = 25 * (r.toNat : Rat) / 2 ^ 18

/-- R214: neither converter gives a NaN, an infinity, a subnormal or -0.0; a zero result is +0.0, at the raw
values the rule names. -/
def Obligations.Binary64SpecialValues : Prop :=
  ∀ r : RawField, ∀ w ∈ [(convT64 r).toNat, (convH64 r).toNat],
    w / 2 ^ 52 % 2 ^ 11 ≠ 2047
    ∧ (w / 2 ^ 52 % 2 ^ 11 = 0 → w = 0)
    ∧ ((convT64 r).toNat = 0 ↔ r = 0x40000#20) ∧ ((convH64 r).toNat = 0 ↔ r = 0#20)

/-- R219: in binary32 the results are the exact values when 25 r is below 2^24 or r is even, and else differ
from them by one unit of 2^-17 or 2^-18; the subtraction is always exact. -/
def Obligations.Binary32Rounding : Prop :=
  ∀ r : RawField,
    ((25 * r.toNat < 2 ^ 24 ∨ r.toNat % 2 = 0) →
      (valueOf .binary32 (convT32 r).toNat).toRat = (25 * (r.toNat : Rat) - 6553600) / 2 ^ 17
      ∧ (valueOf .binary32 (convH32 r).toNat).toRat = 25 * (r.toNat : Rat) / 2 ^ 18)
    ∧ (2 ^ 24 ≤ 25 * r.toNat → r.toNat % 2 = 1 →
      |(valueOf .binary32 (convT32 r).toNat).toRat - (25 * (r.toNat : Rat) - 6553600) / 2 ^ 17| = 1 / 2 ^ 17
      ∧ |(valueOf .binary32 (convH32 r).toNat).toRat - 25 * (r.toNat : Rat) / 2 ^ 18| = 1 / 2 ^ 18)
    ∧ (tempNumber .binary32 r).toRat
        = (roundNearest .binary32 ((rawValue r).times scaleT)).toRat - 50

/-! ### Whole operations and the whole machine -/

/-- R152 with R140 and R148, under one order of the agents' turns: from any idle state with a MEASURE at the
port and the turns `measureTurns`, in which each request is answered Ok by the very next turn and nothing
else moves, the block ends after its eight events with the outcome that R152 computes from the frame, and its
port events are one bus WRITE, one delay and one bus READ. The order is the model's schedule
(notes/assumptions/1.md); every order is covered by CompletedOperationsRanTheirSequence. -/
def Obligations.MeasureOutcome : Prop :=
  ∀ (s : State) (f : Frame) (rest : List OpCode) (later : List Turn),
    s.fsm = .idle → s.pend = false → s.requests = 0b10#2 :: rest → s.schedule = measureTurns f.bytes ++ later →
    ∃ t : State, Sys2Proof.core.run 8 s = .next t
      ∧ t.fsm = .idle ∧ t.pend = false ∧ t.done = true ∧ t.frame = f ∧ t.st = s.st ∧ t.requests = rest
      ∧ t.schedule = later ∧ t.params = s.params
      ∧ t.result = (measureOutcome s.params.floatFormat f).1
      ∧ t.errCause = (measureOutcome s.params.floatFormat f).2.1
      ∧ (match (measureOutcome s.params.floatFormat f).2.2 with
          | some (temp, hum) =>
            t.temp = temp ∧ t.hum = hum ∧ t.hasReading = true ∧ t.rawT = unpackT f ∧ t.rawH = unpackH f
          | none =>
            t.temp = s.temp ∧ t.hum = s.hum ∧ t.hasReading = s.hasReading ∧ t.rawT = s.rawT
            ∧ t.rawH = s.rawH)
      ∧ t.trace = s.trace ++ [.accept 0b10#2] ++ measureSequence s.params f ++ [.complete t.result t.errCause]

/-- R123 with R110, under one order of the agents' turns: from any idle state with an INIT at the port and the
turns `initTurns`, in which each request is answered Ok by the very next turn and nothing else moves, the
block runs one of the four event sequences, set by the CAL bits of its two status bytes, and ends with that
row's result and cause. The order is the model's schedule (notes/assumptions/1.md); every order is covered
by CompletedOperationsRanTheirSequence. -/
def Obligations.InitOutcome : Prop :=
  ∀ (s : State) (s1 s2 : Byte) (rest : List OpCode) (later : List Turn),
    s.fsm = .idle → s.pend = false → s.requests = 0b01#2 :: rest → s.schedule = initTurns s1 s2 ++ later →
    ∃ t : State, Sys2Proof.core.run (initTurns s1 s2).length s = .next t
      ∧ t.fsm = .idle ∧ t.pend = false ∧ t.done = true ∧ t.st = s2 ∧ t.requests = rest
      ∧ t.schedule = later ∧ t.params = s.params
      ∧ t.frame = s.frame ∧ t.rawT = s.rawT ∧ t.rawH = s.rawH ∧ t.temp = s.temp ∧ t.hum = s.hum
      ∧ t.hasReading = s.hasReading ∧ t.result = (if s2[3] then .ok else .err)
      ∧ t.errCause = (if s2[3] then .none else .calibrationFailure)
      ∧ t.trace = s.trace ++ [.accept 0b01#2] ++ initSequence s.params s1 s2 ++ [.complete t.result t.errCause]

/-- The invariant holds after reset. -/
def Obligations.InvAtReset : Prop := State.reset.Inv ∧ State.reset.TraceFits

/-- The invariant holds after every step of every agent, from every state that meets it: `fsm`, RESULT and
ERR_CAUSE hold no reserved code (R29, R90, R91), `pend` is 1 only in a request state (R30), DONE is 0 while
an operation runs (R34), ERR_CAUSE is NONE exactly for Ok results (R36), TEMP and HUM hold patterns of
FLOAT_FORMAT (R37). -/
def Obligations.InvKeptByEveryStep : Prop := ∀ s t : State, s.Inv → step s = .next t → t.Inv

/-- R70, R110, R140: in every state a run reaches, however the agents take turns, the ports have shown
exactly the running operation's own sequence up to its state and its outstanding request: no step skipped,
repeated, merged or added (so no polling, R145, no retry, R119 and R149, and one calibrate command at
most). -/
def Obligations.TraceKeepsToTheSequence : Prop :=
  ∀ s t : State, s.Inv → s.TraceFits → step s = .next t → t.TraceFits

/-- Whenever an operation ends by an answer or an evaluation, however the agents took turns, its bus and
delay events are the whole sequence of an INIT with the result of its row (R123), or that of a MEASURE
(R140, R148) with the outcome of its frame (R152), or the sequence cut short after the transaction that
failed (R233). -/
def Obligations.CompletedOperationsRanTheirSequence : Prop :=
  ∀ (s t : State) (r : ResultCode) (c : Cause), s.Inv → s.TraceFits → step s = .next t →
    .complete r c ∈ s.eventsSince t → c ≠ .illegalOp →
    (∃ s1 s2 : Byte, s.fsm = .iStat2 ∧ opEvents t.trace = initSequence s.params s1 s2
      ∧ (r, c) = if s2[3] then (.ok, .none) else (.err, .calibrationFailure))
    ∨ (s.fsm = .mEval ∧ opEvents t.trace = measureSequence s.params s.frame
      ∧ (r, c) = ((measureOutcome s.params.floatFormat s.frame).1,
          (measureOutcome s.params.floatFormat s.frame).2.1))
    ∨ (c = .transport ∧ ∃ events req rx, s.SoFar events ∧ portRequest s.params s.fsm = some (.bus req)
      ∧ opEvents t.trace = events ++ [.request (.bus req), .busAnswer r rx])

/-- R38: no state carried from one operation changes what a later one does. Two states that agree on what
the operation in progress has received (and on what the agents do next) take the same step, show the same
events at the ports and stay in agreement, whatever their result registers, working registers and readings
hold; and a completion writes the same result, cause and reading in both. -/
def Obligations.NoHistory : Prop :=
  ∀ s t : State, s.SameControl t → (∀ reg, s.nextTurn ≠ .hostRead reg) →
    (∃ s' t', step s = .next s' ∧ step t = .next t' ∧ s'.SameControl t'
      ∧ s.eventsSince s' = t.eventsSince t'
      ∧ (∀ r c, .complete r c ∈ s.eventsSince s' → s'.result = t'.result ∧ s'.errCause = t'.errCause
          ∧ (s.fsm = .mEval → r = .ok →
              s'.temp = t'.temp ∧ s'.hum = t'.hum ∧ s'.hasReading = t'.hasReading)))
    ∨ (∃ f, step s = .fault f ∧ step t = .fault f)
    ∨ (∃ r, step s = .refused r ∧ step t = .refused r)

/-- R29, R248: an operation takes a bounded number of the block's own events. Every event of an operation
brings it nearer to its end, no turn of another agent takes it back, and a turn in which the block can move
moves it. -/
def Obligations.OperationsMakeProgress : Prop :=
  ∀ s t : State, s.Inv → s.fsm ≠ .idle → step s = .next t → s.nextTurn ≠ .reset →
    t.eventsLeft ≤ s.eventsLeft ∧ s.eventsLeft ≤ 14
    ∧ ((s.nextTurn = .sequencer ∧ s.pend = false) ∨ (∃ code rx, s.nextTurn = .busAnswer code rx)
        ∨ s.nextTurn = .delayDone → t.eventsLeft < s.eventsLeft)
    ∧ (t.eventsLeft = 0 ↔ t.fsm = .idle)

/-- R248, R146: the block itself never hangs, faults or refuses in an operation: while it runs, the
Sequencer can take its own event, or the answer it waits for, whichever answer of the contract that is: a
done, an Ok response of the request's length, or a response Err or Timeout. -/
def Obligations.OperationsNeverHangByThemselves : Prop :=
  ∀ s : State, s.Inv → s.fsm ≠ .idle →
    (s.nextTurn = .sequencer → ∃ t, step s = .next t)
    ∧ (s.delayPending = true → s.nextTurn = .delayDone → ∃ t, step s = .next t)
    ∧ (∀ r rx, s.busPending = true → portRequest s.params s.fsm = some (.bus r) → rx.length = r.rxLen →
        s.nextTurn = .busAnswer .ok rx → ∃ t, step s = .next t)
    ∧ (∀ code rx, s.busPending = true → code = .err ∨ code = .timeout → s.nextTurn = .busAnswer code rx →
        ∃ t, step s = .next t)
    ∧ (s.pend = true → s.busPending = true ∨ s.delayPending = true)
end

