-- ==== Sys2Proof/Laws/State.lean ====
section
/-! SUPPORT. What each operation on State does to each field, one lemma per field, true by unfolding. -/

namespace Sys2Proof.Machine

/-! ### State.emit -/

@[simp] theorem emit_fsm (s : State) (e : PortEvent) : (s.emit e).fsm = s.fsm := rfl
@[simp] theorem emit_pend (s : State) (e : PortEvent) : (s.emit e).pend = s.pend := rfl
@[simp] theorem emit_st (s : State) (e : PortEvent) : (s.emit e).st = s.st := rfl
@[simp] theorem emit_frame (s : State) (e : PortEvent) : (s.emit e).frame = s.frame := rfl
@[simp] theorem emit_rawT (s : State) (e : PortEvent) : (s.emit e).rawT = s.rawT := rfl
@[simp] theorem emit_rawH (s : State) (e : PortEvent) : (s.emit e).rawH = s.rawH := rfl
@[simp] theorem emit_done (s : State) (e : PortEvent) : (s.emit e).done = s.done := rfl
@[simp] theorem emit_result (s : State) (e : PortEvent) : (s.emit e).result = s.result := rfl
@[simp] theorem emit_errCause (s : State) (e : PortEvent) : (s.emit e).errCause = s.errCause := rfl
@[simp] theorem emit_temp (s : State) (e : PortEvent) : (s.emit e).temp = s.temp := rfl
@[simp] theorem emit_hum (s : State) (e : PortEvent) : (s.emit e).hum = s.hum := rfl
@[simp] theorem emit_hasReading (s : State) (e : PortEvent) : (s.emit e).hasReading = s.hasReading := rfl
@[simp] theorem emit_params (s : State) (e : PortEvent) : (s.emit e).params = s.params := rfl
@[simp] theorem emit_requests (s : State) (e : PortEvent) : (s.emit e).requests = s.requests := rfl
@[simp] theorem emit_busResp (s : State) (e : PortEvent) : (s.emit e).busResp = s.busResp := rfl
@[simp] theorem emit_delayDone (s : State) (e : PortEvent) : (s.emit e).delayDone = s.delayDone := rfl
@[simp] theorem emit_abandoned (s : State) (e : PortEvent) : (s.emit e).abandoned = s.abandoned := rfl
@[simp] theorem emit_schedule (s : State) (e : PortEvent) : (s.emit e).schedule = s.schedule := rfl
@[simp] theorem emit_trace (s : State) (e : PortEvent) : (s.emit e).trace = s.trace ++ [e] := rfl

/-! ### complete -/

@[simp] theorem complete_fsm (r : ResultCode) (c : Cause) (o : Option (FloatReg × FloatReg)) (s : State) : (complete r c o s).fsm = .idle := rfl
@[simp] theorem complete_pend (r : ResultCode) (c : Cause) (o : Option (FloatReg × FloatReg)) (s : State) : (complete r c o s).pend = false := rfl
@[simp] theorem complete_st (r : ResultCode) (c : Cause) (o : Option (FloatReg × FloatReg)) (s : State) : (complete r c o s).st = s.st := rfl
@[simp] theorem complete_frame (r : ResultCode) (c : Cause) (o : Option (FloatReg × FloatReg)) (s : State) : (complete r c o s).frame = s.frame := rfl
@[simp] theorem complete_rawT (r : ResultCode) (c : Cause) (o : Option (FloatReg × FloatReg)) (s : State) : (complete r c o s).rawT = s.rawT := rfl
@[simp] theorem complete_rawH (r : ResultCode) (c : Cause) (o : Option (FloatReg × FloatReg)) (s : State) : (complete r c o s).rawH = s.rawH := rfl
@[simp] theorem complete_done (r : ResultCode) (c : Cause) (o : Option (FloatReg × FloatReg)) (s : State) : (complete r c o s).done = true := rfl
@[simp] theorem complete_result (r : ResultCode) (c : Cause) (o : Option (FloatReg × FloatReg)) (s : State) : (complete r c o s).result = r := rfl
@[simp] theorem complete_errCause (r : ResultCode) (c : Cause) (o : Option (FloatReg × FloatReg)) (s : State) : (complete r c o s).errCause = c := rfl
@[simp] theorem complete_temp (r : ResultCode) (c : Cause) (o : Option (FloatReg × FloatReg)) (s : State) : (complete r c o s).temp = (o.map Prod.fst).getD s.temp := rfl
@[simp] theorem complete_hum (r : ResultCode) (c : Cause) (o : Option (FloatReg × FloatReg)) (s : State) : (complete r c o s).hum = (o.map Prod.snd).getD s.hum := rfl
@[simp] theorem complete_hasReading (r : ResultCode) (c : Cause) (o : Option (FloatReg × FloatReg)) (s : State) : (complete r c o s).hasReading = (o.isSome || s.hasReading) := rfl
@[simp] theorem complete_params (r : ResultCode) (c : Cause) (o : Option (FloatReg × FloatReg)) (s : State) : (complete r c o s).params = s.params := rfl
@[simp] theorem complete_requests (r : ResultCode) (c : Cause) (o : Option (FloatReg × FloatReg)) (s : State) : (complete r c o s).requests = s.requests := rfl
@[simp] theorem complete_busResp (r : ResultCode) (c : Cause) (o : Option (FloatReg × FloatReg)) (s : State) : (complete r c o s).busResp = s.busResp := rfl
@[simp] theorem complete_delayDone (r : ResultCode) (c : Cause) (o : Option (FloatReg × FloatReg)) (s : State) : (complete r c o s).delayDone = s.delayDone := rfl
@[simp] theorem complete_abandoned (r : ResultCode) (c : Cause) (o : Option (FloatReg × FloatReg)) (s : State) : (complete r c o s).abandoned = s.abandoned := rfl
@[simp] theorem complete_schedule (r : ResultCode) (c : Cause) (o : Option (FloatReg × FloatReg)) (s : State) : (complete r c o s).schedule = s.schedule := rfl
@[simp] theorem complete_trace (r : ResultCode) (c : Cause) (o : Option (FloatReg × FloatReg)) (s : State) : (complete r c o s).trace = s.trace ++ [.complete r c] := rfl

/-! ### accept -/

@[simp] theorem accept_fsm (op : OpCode) (s : State) : (accept op s).fsm = s.fsm := rfl
@[simp] theorem accept_pend (op : OpCode) (s : State) : (accept op s).pend = s.pend := rfl
@[simp] theorem accept_st (op : OpCode) (s : State) : (accept op s).st = s.st := rfl
@[simp] theorem accept_frame (op : OpCode) (s : State) : (accept op s).frame = s.frame := rfl
@[simp] theorem accept_rawT (op : OpCode) (s : State) : (accept op s).rawT = s.rawT := rfl
@[simp] theorem accept_rawH (op : OpCode) (s : State) : (accept op s).rawH = s.rawH := rfl
@[simp] theorem accept_done (op : OpCode) (s : State) : (accept op s).done = false := rfl
@[simp] theorem accept_result (op : OpCode) (s : State) : (accept op s).result = s.result := rfl
@[simp] theorem accept_errCause (op : OpCode) (s : State) : (accept op s).errCause = s.errCause := rfl
@[simp] theorem accept_temp (op : OpCode) (s : State) : (accept op s).temp = s.temp := rfl
@[simp] theorem accept_hum (op : OpCode) (s : State) : (accept op s).hum = s.hum := rfl
@[simp] theorem accept_hasReading (op : OpCode) (s : State) : (accept op s).hasReading = s.hasReading := rfl
@[simp] theorem accept_params (op : OpCode) (s : State) : (accept op s).params = s.params := rfl
@[simp] theorem accept_requests (op : OpCode) (s : State) : (accept op s).requests = s.requests.tail := rfl
@[simp] theorem accept_busResp (op : OpCode) (s : State) : (accept op s).busResp = s.busResp := rfl
@[simp] theorem accept_delayDone (op : OpCode) (s : State) : (accept op s).delayDone = s.delayDone := rfl
@[simp] theorem accept_abandoned (op : OpCode) (s : State) : (accept op s).abandoned = s.abandoned := rfl
@[simp] theorem accept_schedule (op : OpCode) (s : State) : (accept op s).schedule = s.schedule := rfl
@[simp] theorem accept_trace (op : OpCode) (s : State) : (accept op s).trace = s.trace ++ [.accept op] := rfl

/-! ### acceptInto -/

@[simp] theorem acceptInto_fsm (op : OpCode) (f : Fsm) (s : State) : (acceptInto op f s).fsm = f := rfl
@[simp] theorem acceptInto_pend (op : OpCode) (f : Fsm) (s : State) : (acceptInto op f s).pend = s.pend := rfl
@[simp] theorem acceptInto_st (op : OpCode) (f : Fsm) (s : State) : (acceptInto op f s).st = s.st := rfl
@[simp] theorem acceptInto_frame (op : OpCode) (f : Fsm) (s : State) : (acceptInto op f s).frame = s.frame := rfl
@[simp] theorem acceptInto_rawT (op : OpCode) (f : Fsm) (s : State) : (acceptInto op f s).rawT = s.rawT := rfl
@[simp] theorem acceptInto_rawH (op : OpCode) (f : Fsm) (s : State) : (acceptInto op f s).rawH = s.rawH := rfl
@[simp] theorem acceptInto_done (op : OpCode) (f : Fsm) (s : State) : (acceptInto op f s).done = false := rfl
@[simp] theorem acceptInto_result (op : OpCode) (f : Fsm) (s : State) : (acceptInto op f s).result = s.result := rfl
@[simp] theorem acceptInto_errCause (op : OpCode) (f : Fsm) (s : State) : (acceptInto op f s).errCause = s.errCause := rfl
@[simp] theorem acceptInto_temp (op : OpCode) (f : Fsm) (s : State) : (acceptInto op f s).temp = s.temp := rfl
@[simp] theorem acceptInto_hum (op : OpCode) (f : Fsm) (s : State) : (acceptInto op f s).hum = s.hum := rfl
@[simp] theorem acceptInto_hasReading (op : OpCode) (f : Fsm) (s : State) : (acceptInto op f s).hasReading = s.hasReading := rfl
@[simp] theorem acceptInto_params (op : OpCode) (f : Fsm) (s : State) : (acceptInto op f s).params = s.params := rfl
@[simp] theorem acceptInto_requests (op : OpCode) (f : Fsm) (s : State) : (acceptInto op f s).requests = s.requests.tail := rfl
@[simp] theorem acceptInto_busResp (op : OpCode) (f : Fsm) (s : State) : (acceptInto op f s).busResp = s.busResp := rfl
@[simp] theorem acceptInto_delayDone (op : OpCode) (f : Fsm) (s : State) : (acceptInto op f s).delayDone = s.delayDone := rfl
@[simp] theorem acceptInto_abandoned (op : OpCode) (f : Fsm) (s : State) : (acceptInto op f s).abandoned = s.abandoned := rfl
@[simp] theorem acceptInto_schedule (op : OpCode) (f : Fsm) (s : State) : (acceptInto op f s).schedule = s.schedule := rfl
@[simp] theorem acceptInto_trace (op : OpCode) (f : Fsm) (s : State) : (acceptInto op f s).trace = s.trace ++ [.accept op] := rfl

/-! ### acceptIllegal -/

@[simp] theorem acceptIllegal_fsm (op : OpCode) (s : State) : (acceptIllegal op s).fsm = .idle := rfl
@[simp] theorem acceptIllegal_pend (op : OpCode) (s : State) : (acceptIllegal op s).pend = false := rfl
@[simp] theorem acceptIllegal_st (op : OpCode) (s : State) : (acceptIllegal op s).st = s.st := rfl
@[simp] theorem acceptIllegal_frame (op : OpCode) (s : State) : (acceptIllegal op s).frame = s.frame := rfl
@[simp] theorem acceptIllegal_rawT (op : OpCode) (s : State) : (acceptIllegal op s).rawT = s.rawT := rfl
@[simp] theorem acceptIllegal_rawH (op : OpCode) (s : State) : (acceptIllegal op s).rawH = s.rawH := rfl
@[simp] theorem acceptIllegal_done (op : OpCode) (s : State) : (acceptIllegal op s).done = true := rfl
@[simp] theorem acceptIllegal_result (op : OpCode) (s : State) : (acceptIllegal op s).result = .err := rfl
@[simp] theorem acceptIllegal_errCause (op : OpCode) (s : State) : (acceptIllegal op s).errCause = .illegalOp := rfl
@[simp] theorem acceptIllegal_temp (op : OpCode) (s : State) : (acceptIllegal op s).temp = s.temp := rfl
@[simp] theorem acceptIllegal_hum (op : OpCode) (s : State) : (acceptIllegal op s).hum = s.hum := rfl
@[simp] theorem acceptIllegal_hasReading (op : OpCode) (s : State) : (acceptIllegal op s).hasReading = s.hasReading := rfl
@[simp] theorem acceptIllegal_params (op : OpCode) (s : State) : (acceptIllegal op s).params = s.params := rfl
@[simp] theorem acceptIllegal_requests (op : OpCode) (s : State) : (acceptIllegal op s).requests = s.requests.tail := rfl
@[simp] theorem acceptIllegal_busResp (op : OpCode) (s : State) : (acceptIllegal op s).busResp = s.busResp := rfl
@[simp] theorem acceptIllegal_delayDone (op : OpCode) (s : State) : (acceptIllegal op s).delayDone = s.delayDone := rfl
@[simp] theorem acceptIllegal_abandoned (op : OpCode) (s : State) : (acceptIllegal op s).abandoned = s.abandoned := rfl
@[simp] theorem acceptIllegal_schedule (op : OpCode) (s : State) : (acceptIllegal op s).schedule = s.schedule := rfl
@[simp] theorem acceptIllegal_trace (op : OpCode) (s : State) : (acceptIllegal op s).trace = s.trace ++ [.accept op] ++ [.complete .err .illegalOp] := rfl

/-! ### issue -/

@[simp] theorem issue_fsm (r : PortRequest) (s : State) : (issue r s).fsm = s.fsm := rfl
@[simp] theorem issue_pend (r : PortRequest) (s : State) : (issue r s).pend = true := rfl
@[simp] theorem issue_st (r : PortRequest) (s : State) : (issue r s).st = s.st := rfl
@[simp] theorem issue_frame (r : PortRequest) (s : State) : (issue r s).frame = s.frame := rfl
@[simp] theorem issue_rawT (r : PortRequest) (s : State) : (issue r s).rawT = s.rawT := rfl
@[simp] theorem issue_rawH (r : PortRequest) (s : State) : (issue r s).rawH = s.rawH := rfl
@[simp] theorem issue_done (r : PortRequest) (s : State) : (issue r s).done = s.done := rfl
@[simp] theorem issue_result (r : PortRequest) (s : State) : (issue r s).result = s.result := rfl
@[simp] theorem issue_errCause (r : PortRequest) (s : State) : (issue r s).errCause = s.errCause := rfl
@[simp] theorem issue_temp (r : PortRequest) (s : State) : (issue r s).temp = s.temp := rfl
@[simp] theorem issue_hum (r : PortRequest) (s : State) : (issue r s).hum = s.hum := rfl
@[simp] theorem issue_hasReading (r : PortRequest) (s : State) : (issue r s).hasReading = s.hasReading := rfl
@[simp] theorem issue_params (r : PortRequest) (s : State) : (issue r s).params = s.params := rfl
@[simp] theorem issue_requests (r : PortRequest) (s : State) : (issue r s).requests = s.requests := rfl
@[simp] theorem issue_busResp (r : PortRequest) (s : State) : (issue r s).busResp = s.busResp := rfl
@[simp] theorem issue_delayDone (r : PortRequest) (s : State) : (issue r s).delayDone = s.delayDone := rfl
@[simp] theorem issue_abandoned (r : PortRequest) (s : State) : (issue r s).abandoned = s.abandoned := rfl
@[simp] theorem issue_schedule (r : PortRequest) (s : State) : (issue r s).schedule = s.schedule := rfl
@[simp] theorem issue_trace (r : PortRequest) (s : State) : (issue r s).trace = s.trace ++ [.request r] := rfl

/-! ### deliverBusAnswer -/

@[simp] theorem deliverBusAnswer_fsm (c : ResultCode) (rx : List Byte) (s : State) : (deliverBusAnswer c rx s).fsm = s.fsm := rfl
@[simp] theorem deliverBusAnswer_pend (c : ResultCode) (rx : List Byte) (s : State) : (deliverBusAnswer c rx s).pend = s.pend := rfl
@[simp] theorem deliverBusAnswer_st (c : ResultCode) (rx : List Byte) (s : State) : (deliverBusAnswer c rx s).st = s.st := rfl
@[simp] theorem deliverBusAnswer_frame (c : ResultCode) (rx : List Byte) (s : State) : (deliverBusAnswer c rx s).frame = s.frame := rfl
@[simp] theorem deliverBusAnswer_rawT (c : ResultCode) (rx : List Byte) (s : State) : (deliverBusAnswer c rx s).rawT = s.rawT := rfl
@[simp] theorem deliverBusAnswer_rawH (c : ResultCode) (rx : List Byte) (s : State) : (deliverBusAnswer c rx s).rawH = s.rawH := rfl
@[simp] theorem deliverBusAnswer_done (c : ResultCode) (rx : List Byte) (s : State) : (deliverBusAnswer c rx s).done = s.done := rfl
@[simp] theorem deliverBusAnswer_result (c : ResultCode) (rx : List Byte) (s : State) : (deliverBusAnswer c rx s).result = s.result := rfl
@[simp] theorem deliverBusAnswer_errCause (c : ResultCode) (rx : List Byte) (s : State) : (deliverBusAnswer c rx s).errCause = s.errCause := rfl
@[simp] theorem deliverBusAnswer_temp (c : ResultCode) (rx : List Byte) (s : State) : (deliverBusAnswer c rx s).temp = s.temp := rfl
@[simp] theorem deliverBusAnswer_hum (c : ResultCode) (rx : List Byte) (s : State) : (deliverBusAnswer c rx s).hum = s.hum := rfl
@[simp] theorem deliverBusAnswer_hasReading (c : ResultCode) (rx : List Byte) (s : State) : (deliverBusAnswer c rx s).hasReading = s.hasReading := rfl
@[simp] theorem deliverBusAnswer_params (c : ResultCode) (rx : List Byte) (s : State) : (deliverBusAnswer c rx s).params = s.params := rfl
@[simp] theorem deliverBusAnswer_requests (c : ResultCode) (rx : List Byte) (s : State) : (deliverBusAnswer c rx s).requests = s.requests := rfl
@[simp] theorem deliverBusAnswer_busResp (c : ResultCode) (rx : List Byte) (s : State) : (deliverBusAnswer c rx s).busResp = some ⟨c, rx⟩ := rfl
@[simp] theorem deliverBusAnswer_delayDone (c : ResultCode) (rx : List Byte) (s : State) : (deliverBusAnswer c rx s).delayDone = s.delayDone := rfl
@[simp] theorem deliverBusAnswer_abandoned (c : ResultCode) (rx : List Byte) (s : State) : (deliverBusAnswer c rx s).abandoned = s.abandoned := rfl
@[simp] theorem deliverBusAnswer_schedule (c : ResultCode) (rx : List Byte) (s : State) : (deliverBusAnswer c rx s).schedule = s.schedule := rfl
@[simp] theorem deliverBusAnswer_trace (c : ResultCode) (rx : List Byte) (s : State) : (deliverBusAnswer c rx s).trace = s.trace := rfl

/-! ### deliverDelayDone -/

@[simp] theorem deliverDelayDone_fsm (s : State) : (deliverDelayDone s).fsm = s.fsm := rfl
@[simp] theorem deliverDelayDone_pend (s : State) : (deliverDelayDone s).pend = s.pend := rfl
@[simp] theorem deliverDelayDone_st (s : State) : (deliverDelayDone s).st = s.st := rfl
@[simp] theorem deliverDelayDone_frame (s : State) : (deliverDelayDone s).frame = s.frame := rfl
@[simp] theorem deliverDelayDone_rawT (s : State) : (deliverDelayDone s).rawT = s.rawT := rfl
@[simp] theorem deliverDelayDone_rawH (s : State) : (deliverDelayDone s).rawH = s.rawH := rfl
@[simp] theorem deliverDelayDone_done (s : State) : (deliverDelayDone s).done = s.done := rfl
@[simp] theorem deliverDelayDone_result (s : State) : (deliverDelayDone s).result = s.result := rfl
@[simp] theorem deliverDelayDone_errCause (s : State) : (deliverDelayDone s).errCause = s.errCause := rfl
@[simp] theorem deliverDelayDone_temp (s : State) : (deliverDelayDone s).temp = s.temp := rfl
@[simp] theorem deliverDelayDone_hum (s : State) : (deliverDelayDone s).hum = s.hum := rfl
@[simp] theorem deliverDelayDone_hasReading (s : State) : (deliverDelayDone s).hasReading = s.hasReading := rfl
@[simp] theorem deliverDelayDone_params (s : State) : (deliverDelayDone s).params = s.params := rfl
@[simp] theorem deliverDelayDone_requests (s : State) : (deliverDelayDone s).requests = s.requests := rfl
@[simp] theorem deliverDelayDone_busResp (s : State) : (deliverDelayDone s).busResp = s.busResp := rfl
@[simp] theorem deliverDelayDone_delayDone (s : State) : (deliverDelayDone s).delayDone = true := rfl
@[simp] theorem deliverDelayDone_abandoned (s : State) : (deliverDelayDone s).abandoned = s.abandoned := rfl
@[simp] theorem deliverDelayDone_schedule (s : State) : (deliverDelayDone s).schedule = s.schedule := rfl
@[simp] theorem deliverDelayDone_trace (s : State) : (deliverDelayDone s).trace = s.trace := rfl

/-! ### takeBusAnswer -/

@[simp] theorem takeBusAnswer_fsm (c : ResultCode) (rx : List Byte) (s : State) : (takeBusAnswer c rx s).fsm = s.fsm := rfl
@[simp] theorem takeBusAnswer_pend (c : ResultCode) (rx : List Byte) (s : State) : (takeBusAnswer c rx s).pend = false := rfl
@[simp] theorem takeBusAnswer_st (c : ResultCode) (rx : List Byte) (s : State) : (takeBusAnswer c rx s).st = s.st := rfl
@[simp] theorem takeBusAnswer_frame (c : ResultCode) (rx : List Byte) (s : State) : (takeBusAnswer c rx s).frame = s.frame := rfl
@[simp] theorem takeBusAnswer_rawT (c : ResultCode) (rx : List Byte) (s : State) : (takeBusAnswer c rx s).rawT = s.rawT := rfl
@[simp] theorem takeBusAnswer_rawH (c : ResultCode) (rx : List Byte) (s : State) : (takeBusAnswer c rx s).rawH = s.rawH := rfl
@[simp] theorem takeBusAnswer_done (c : ResultCode) (rx : List Byte) (s : State) : (takeBusAnswer c rx s).done = s.done := rfl
@[simp] theorem takeBusAnswer_result (c : ResultCode) (rx : List Byte) (s : State) : (takeBusAnswer c rx s).result = s.result := rfl
@[simp] theorem takeBusAnswer_errCause (c : ResultCode) (rx : List Byte) (s : State) : (takeBusAnswer c rx s).errCause = s.errCause := rfl
@[simp] theorem takeBusAnswer_temp (c : ResultCode) (rx : List Byte) (s : State) : (takeBusAnswer c rx s).temp = s.temp := rfl
@[simp] theorem takeBusAnswer_hum (c : ResultCode) (rx : List Byte) (s : State) : (takeBusAnswer c rx s).hum = s.hum := rfl
@[simp] theorem takeBusAnswer_hasReading (c : ResultCode) (rx : List Byte) (s : State) : (takeBusAnswer c rx s).hasReading = s.hasReading := rfl
@[simp] theorem takeBusAnswer_params (c : ResultCode) (rx : List Byte) (s : State) : (takeBusAnswer c rx s).params = s.params := rfl
@[simp] theorem takeBusAnswer_requests (c : ResultCode) (rx : List Byte) (s : State) : (takeBusAnswer c rx s).requests = s.requests := rfl
@[simp] theorem takeBusAnswer_busResp (c : ResultCode) (rx : List Byte) (s : State) : (takeBusAnswer c rx s).busResp = none := rfl
@[simp] theorem takeBusAnswer_delayDone (c : ResultCode) (rx : List Byte) (s : State) : (takeBusAnswer c rx s).delayDone = s.delayDone := rfl
@[simp] theorem takeBusAnswer_abandoned (c : ResultCode) (rx : List Byte) (s : State) : (takeBusAnswer c rx s).abandoned = s.abandoned := rfl
@[simp] theorem takeBusAnswer_schedule (c : ResultCode) (rx : List Byte) (s : State) : (takeBusAnswer c rx s).schedule = s.schedule := rfl
@[simp] theorem takeBusAnswer_trace (c : ResultCode) (rx : List Byte) (s : State) : (takeBusAnswer c rx s).trace = s.trace ++ [.busAnswer c rx] := rfl

/-! ### takeDelayDone -/

@[simp] theorem takeDelayDone_fsm (s : State) : (takeDelayDone s).fsm = s.fsm := rfl
@[simp] theorem takeDelayDone_pend (s : State) : (takeDelayDone s).pend = false := rfl
@[simp] theorem takeDelayDone_st (s : State) : (takeDelayDone s).st = s.st := rfl
@[simp] theorem takeDelayDone_frame (s : State) : (takeDelayDone s).frame = s.frame := rfl
@[simp] theorem takeDelayDone_rawT (s : State) : (takeDelayDone s).rawT = s.rawT := rfl
@[simp] theorem takeDelayDone_rawH (s : State) : (takeDelayDone s).rawH = s.rawH := rfl
@[simp] theorem takeDelayDone_done (s : State) : (takeDelayDone s).done = s.done := rfl
@[simp] theorem takeDelayDone_result (s : State) : (takeDelayDone s).result = s.result := rfl
@[simp] theorem takeDelayDone_errCause (s : State) : (takeDelayDone s).errCause = s.errCause := rfl
@[simp] theorem takeDelayDone_temp (s : State) : (takeDelayDone s).temp = s.temp := rfl
@[simp] theorem takeDelayDone_hum (s : State) : (takeDelayDone s).hum = s.hum := rfl
@[simp] theorem takeDelayDone_hasReading (s : State) : (takeDelayDone s).hasReading = s.hasReading := rfl
@[simp] theorem takeDelayDone_params (s : State) : (takeDelayDone s).params = s.params := rfl
@[simp] theorem takeDelayDone_requests (s : State) : (takeDelayDone s).requests = s.requests := rfl
@[simp] theorem takeDelayDone_busResp (s : State) : (takeDelayDone s).busResp = s.busResp := rfl
@[simp] theorem takeDelayDone_delayDone (s : State) : (takeDelayDone s).delayDone = false := rfl
@[simp] theorem takeDelayDone_abandoned (s : State) : (takeDelayDone s).abandoned = s.abandoned := rfl
@[simp] theorem takeDelayDone_schedule (s : State) : (takeDelayDone s).schedule = s.schedule := rfl
@[simp] theorem takeDelayDone_trace (s : State) : (takeDelayDone s).trace = s.trace ++ [.delayDone] := rfl

/-! ### presentRequest -/

@[simp] theorem presentRequest_fsm (op : OpCode) (s : State) : (presentRequest op s).fsm = s.fsm := rfl
@[simp] theorem presentRequest_pend (op : OpCode) (s : State) : (presentRequest op s).pend = s.pend := rfl
@[simp] theorem presentRequest_st (op : OpCode) (s : State) : (presentRequest op s).st = s.st := rfl
@[simp] theorem presentRequest_frame (op : OpCode) (s : State) : (presentRequest op s).frame = s.frame := rfl
@[simp] theorem presentRequest_rawT (op : OpCode) (s : State) : (presentRequest op s).rawT = s.rawT := rfl
@[simp] theorem presentRequest_rawH (op : OpCode) (s : State) : (presentRequest op s).rawH = s.rawH := rfl
@[simp] theorem presentRequest_done (op : OpCode) (s : State) : (presentRequest op s).done = s.done := rfl
@[simp] theorem presentRequest_result (op : OpCode) (s : State) : (presentRequest op s).result = s.result := rfl
@[simp] theorem presentRequest_errCause (op : OpCode) (s : State) : (presentRequest op s).errCause = s.errCause := rfl
@[simp] theorem presentRequest_temp (op : OpCode) (s : State) : (presentRequest op s).temp = s.temp := rfl
@[simp] theorem presentRequest_hum (op : OpCode) (s : State) : (presentRequest op s).hum = s.hum := rfl
@[simp] theorem presentRequest_hasReading (op : OpCode) (s : State) : (presentRequest op s).hasReading = s.hasReading := rfl
@[simp] theorem presentRequest_params (op : OpCode) (s : State) : (presentRequest op s).params = s.params := rfl
@[simp] theorem presentRequest_requests (op : OpCode) (s : State) : (presentRequest op s).requests = s.requests ++ [op] := rfl
@[simp] theorem presentRequest_busResp (op : OpCode) (s : State) : (presentRequest op s).busResp = s.busResp := rfl
@[simp] theorem presentRequest_delayDone (op : OpCode) (s : State) : (presentRequest op s).delayDone = s.delayDone := rfl
@[simp] theorem presentRequest_abandoned (op : OpCode) (s : State) : (presentRequest op s).abandoned = s.abandoned := rfl
@[simp] theorem presentRequest_schedule (op : OpCode) (s : State) : (presentRequest op s).schedule = s.schedule := rfl
@[simp] theorem presentRequest_trace (op : OpCode) (s : State) : (presentRequest op s).trace = s.trace := rfl

/-! ### resetEvent -/

@[simp] theorem resetEvent_fsm (s : State) : (resetEvent s).fsm = .idle := rfl
@[simp] theorem resetEvent_pend (s : State) : (resetEvent s).pend = false := rfl
@[simp] theorem resetEvent_st (s : State) : (resetEvent s).st = 0#8 := rfl
@[simp] theorem resetEvent_frame (s : State) : (resetEvent s).frame = ⟨0#8, 0#8, 0#8, 0#8, 0#8, 0#8, 0#8⟩ := rfl
@[simp] theorem resetEvent_rawT (s : State) : (resetEvent s).rawT = 0#20 := rfl
@[simp] theorem resetEvent_rawH (s : State) : (resetEvent s).rawH = 0#20 := rfl
@[simp] theorem resetEvent_done (s : State) : (resetEvent s).done = false := rfl
@[simp] theorem resetEvent_result (s : State) : (resetEvent s).result = .err := rfl
@[simp] theorem resetEvent_errCause (s : State) : (resetEvent s).errCause = .none := rfl
@[simp] theorem resetEvent_temp (s : State) : (resetEvent s).temp = .zero s.params.floatFormat := rfl
@[simp] theorem resetEvent_hum (s : State) : (resetEvent s).hum = .zero s.params.floatFormat := rfl
@[simp] theorem resetEvent_hasReading (s : State) : (resetEvent s).hasReading = false := rfl
@[simp] theorem resetEvent_params (s : State) : (resetEvent s).params = s.params := rfl
@[simp] theorem resetEvent_requests (s : State) : (resetEvent s).requests = s.requests := rfl
@[simp] theorem resetEvent_busResp (s : State) : (resetEvent s).busResp = none := rfl
@[simp] theorem resetEvent_delayDone (s : State) : (resetEvent s).delayDone = false := rfl
@[simp] theorem resetEvent_abandoned (s : State) : (resetEvent s).abandoned = s.abandoned + (if s.pend then 1 else 0) := rfl
@[simp] theorem resetEvent_schedule (s : State) : (resetEvent s).schedule = s.schedule := rfl
@[simp] theorem resetEvent_trace (s : State) : (resetEvent s).trace = s.trace ++ [.reset] := rfl

end Sys2Proof.Machine
end

