-- ==== Sys2Proof/Laws/Ops.lean ====
section
/-! SUPPORT. What each shared operation can do, said once: the ways it can answer a next state. -/

namespace Sys2Proof.Machine

/-! ### Complete and Abort -/

@[simp] theorem complete_none_temp (r : ResultCode) (c : Cause) (s : State) :
    (complete r c none s).temp = s.temp := rfl

@[simp] theorem complete_none_hum (r : ResultCode) (c : Cause) (s : State) :
    (complete r c none s).hum = s.hum := rfl

@[simp] theorem complete_none_hasReading (r : ResultCode) (c : Cause) (s : State) :
    (complete r c none s).hasReading = s.hasReading := rfl

theorem abort_err (s : State) : abort .err s = complete .err .transport none s := rfl

theorem abort_timeout (s : State) : abort .timeout s = complete .timeout .transport none s := rfl

/-! ### Outstanding requests -/

theorem busPending_eq {s : State} {r : BusReq} (h : portRequest s.params s.fsm = some (.bus r)) :
    s.busPending = s.pend := by
  simp [State.busPending, h]

theorem delayPending_eq {s : State} {ms : Millis} (h : portRequest s.params s.fsm = some (.delay ms)) :
    s.delayPending = s.pend := by
  simp [State.delayPending, h]

theorem busPending_iff {s : State} :
    s.busPending = true ↔ s.pend = true ∧ ∃ r, portRequest s.params s.fsm = some (.bus r) := by
  unfold State.busPending
  split <;> simp_all

theorem delayPending_iff {s : State} :
    s.delayPending = true ↔ s.pend = true ∧ ∃ ms, portRequest s.params s.fsm = some (.delay ms) := by
  unfold State.delayPending
  split <;> simp_all

/-! ### Bus and delay states -/

/-- Every way in which a bus state's event answers a next state. -/
theorem busState_next {req : BusReq} {onOk : List Byte → State → State} {s t : State}
    (h : busState req onOk s = .next t) :
    (s.pend = false ∧ t = issue (.bus req) s)
    ∨ (s.pend = true ∧ s.busResp = none ∧ t = s)
    ∨ (∃ rx, s.pend = true ∧ s.busResp = some ⟨.ok, rx⟩ ∧ rx.length = req.rxLen
        ∧ t = onOk rx (takeBusAnswer .ok rx s))
    ∨ (∃ code rx, s.pend = true ∧ s.busResp = some ⟨code, rx⟩ ∧ (code = .err ∨ code = .timeout)
        ∧ t = abort code (takeBusAnswer code rx s)) := by
  unfold busState at h
  split at h
  · next hp =>
    split at h
    · next resp hr =>
      obtain ⟨code, rx⟩ := resp
      cases code with
      | ok =>
        simp only [busAnswer] at h
        split at h
        · next hl => exact .inr (.inr (.inl ⟨rx, hp, hr, hl, by injection h with h; exact h.symm⟩))
        · cases h
      | err =>
        exact .inr (.inr (.inr ⟨.err, rx, hp, hr, .inl rfl, by injection h with h; exact h.symm⟩))
      | timeout =>
        exact .inr (.inr (.inr ⟨.timeout, rx, hp, hr, .inr rfl, by injection h with h; exact h.symm⟩))
      | reserved => cases h
    · next hr => exact .inr (.inl ⟨hp, hr, by injection h with h; exact h.symm⟩)
  · next hp => exact .inl ⟨by simpa using hp, by injection h with h; exact h.symm⟩

/-- Every way in which a delay state's event answers a next state. -/
theorem delayState_next {ms : Millis} {nextFsm : Fsm} {s t : State}
    (h : delayState ms nextFsm s = .next t) :
    (s.pend = false ∧ t = issue (.delay ms) s)
    ∨ (s.pend = true ∧ s.delayDone = false ∧ t = s)
    ∨ (s.pend = true ∧ s.delayDone = true ∧ t = { takeDelayDone s with fsm := nextFsm }) := by
  unfold delayState at h
  split at h
  · next hp =>
    split at h
    · next hd => exact .inr (.inr ⟨hp, hd, by injection h with h; exact h.symm⟩)
    · next hd => exact .inr (.inl ⟨hp, by simpa using hd, by injection h with h; exact h.symm⟩)
  · next hp => exact .inl ⟨by simpa using hp, by injection h with h; exact h.symm⟩

theorem busState_issue {req : BusReq} {onOk : List Byte → State → State} {s : State}
    (hp : s.pend = false) : busState req onOk s = .next (issue (.bus req) s) := by
  simp [busState, hp]

theorem busState_wait {req : BusReq} {onOk : List Byte → State → State} {s : State}
    (hp : s.pend = true) (hr : s.busResp = none) : busState req onOk s = .next s := by
  simp [busState, hp, hr]

theorem busState_ok {req : BusReq} {onOk : List Byte → State → State} {s : State} {rx : List Byte}
    (hp : s.pend = true) (hr : s.busResp = some ⟨.ok, rx⟩) (hl : rx.length = req.rxLen) :
    busState req onOk s = .next (onOk rx (takeBusAnswer .ok rx s)) := by
  simp [busState, hp, hr, busAnswer, hl]

theorem busState_failed {req : BusReq} {onOk : List Byte → State → State} {s : State}
    {code : ResultCode} {rx : List Byte} (hp : s.pend = true) (hr : s.busResp = some ⟨code, rx⟩)
    (hc : code = .err ∨ code = .timeout) :
    busState req onOk s = .next (abort code (takeBusAnswer code rx s)) := by
  rcases hc with rfl | rfl <;> simp [busState, hp, hr, busAnswer]

theorem delayState_issue {ms : Millis} {nextFsm : Fsm} {s : State} (hp : s.pend = false) :
    delayState ms nextFsm s = .next (issue (.delay ms) s) := by
  simp [delayState, hp]

theorem delayState_wait {ms : Millis} {nextFsm : Fsm} {s : State} (hp : s.pend = true)
    (hd : s.delayDone = false) : delayState ms nextFsm s = .next s := by
  simp [delayState, hp, hd]

theorem delayState_done {ms : Millis} {nextFsm : Fsm} {s : State} (hp : s.pend = true)
    (hd : s.delayDone = true) :
    delayState ms nextFsm s = .next { takeDelayDone s with fsm := nextFsm } := by
  simp [delayState, hp, hd]

/-- A bus state never faults. -/
theorem busState_fault {req : BusReq} {onOk : List Byte → State → State} {s : State} {f : Fault} :
    busState req onOk s ≠ .fault f := by
  unfold busState busAnswer
  repeat' split
  all_goals simp

/-- The only refusals of a bus state are breaches of the contract of R25. -/
theorem busState_refused {req : BusReq} {onOk : List Byte → State → State} {s : State} {r : Refusal}
    (h : busState req onOk s = .refused r) : r = .responseLength ∨ r = .responseCode := by
  unfold busState busAnswer at h
  repeat' split at h
  all_goals simp_all

/-- A delay state always answers a next state: a delay cannot fail (R26). -/
theorem delayState_total (ms : Millis) (nextFsm : Fsm) (s : State) :
    ∃ t, delayState ms nextFsm s = .next t := by
  unfold delayState
  repeat' split
  all_goals exact ⟨_, rfl⟩

/-! ### The other agents -/

/-- A host read of TEMP or HUM answers exactly when a MEASURE has completed Ok (R41). -/
theorem readRegister_float {reg : HostReg} {s : State} (h : reg = .temp ∨ reg = .hum) :
    (s.hasReading = false → readRegister reg s = .error .noReading)
    ∧ (s.hasReading = true → ∃ v, readRegister reg s = .ok v) := by
  rcases h with rfl | rfl <;> constructor <;> intro h <;> simp [readRegister, h]

/-- A host read that answers changes only the record of the ports. -/
theorem hostRead_next {reg : HostReg} {s t : State} (h : hostRead reg s = .next t) :
    ∃ v, readRegister reg s = .ok v ∧ t = s.emit (.hostRead reg v) := by
  unfold hostRead at h
  split at h
  · next v hv => exact ⟨v, hv, by injection h with h; exact h.symm⟩
  · cases h

theorem lateAnswer_next {s t : State} (h : lateAnswer s = .next t) :
    s.abandoned ≠ 0 ∧ t = { s with abandoned := s.abandoned - 1 } := by
  unfold lateAnswer at h
  split at h
  · cases h
  · next hn => exact ⟨hn, by injection h with h; exact h.symm⟩

/-! ### The evaluation -/

/-- The three ways the evaluation of a frame ends (R144). -/
theorem evaluate_cases (s : State) :
    (statusCheck s.frame.b0 ≠ .none ∧ evaluate s = complete .err (statusCheck s.frame.b0) none s)
    ∨ (statusCheck s.frame.b0 = .none ∧ frameCrcOk s.frame = false
        ∧ evaluate s = complete .err .dataCorruption none s)
    ∨ (statusCheck s.frame.b0 = .none ∧ frameCrcOk s.frame = true ∧ evaluate s = completeReading s) := by
  unfold evaluate
  by_cases hs : statusCheck s.frame.b0 = .none
  · cases hc : frameCrcOk s.frame <;> simp [hs]
  · simp [hs]

/-- The status check never gives a reserved cause. -/
theorem statusCheck_ne_reserved (b : Byte) : statusCheck b ≠ .reserved := by
  unfold statusCheck
  repeat' split
  all_goals simp

theorem convT_convH_fit (fmt : FloatFormat) (x y : RawField) :
    readingFits fmt (convT fmt x) (convH fmt y) = true := by
  cases fmt <;> rfl

end Sys2Proof.Machine
end

