-- ==== Sys2Proof/Laws/Step.lean ====
section
/-! SUPPORT. What an event of the block and a step of the machine can do, said once as two inductive
relations; every invariant is derived from them instead of from the definition of the step. -/

namespace Sys2Proof.Machine

/-- The successor of a delay state (R111, R113, R116, R142). -/
inductive DelaySucc : Fsm → Fsm → Prop
  | iPwrWait : DelaySucc .iPwrWait .iReset
  | iResetWait : DelaySucc .iResetWait .iStat1
  | iCalWait : DelaySucc .iCalWait .iStat2
  | mWait : DelaySucc .mWait .mRead

/-- The successor of a state that sends a command and reads nothing (R112, R115, R141). -/
inductive WriteSucc : Fsm → Fsm → Prop
  | iReset : WriteSucc .iReset .iResetWait
  | iCal : WriteSucc .iCal .iCalWait
  | mTrig : WriteSucc .mTrig .mWait

/-- The answer to the outstanding request has not come (R248). -/
inductive Unanswered (s : State) : Prop
  | bus (hp : s.busPending = true) (hr : s.busResp = none)
  | delay (hp : s.delayPending = true) (hd : s.delayDone = false)

/-- One event of the block, from `s` to the second state. -/
inductive SeqEvent (s : State) : State → Prop
  | acceptInto (op : OpCode) (first : Fsm) (hi : s.fsm = .idle)
      (ho : (op = 0b01#2 ∧ first = .iPwrWait) ∨ (op = 0b10#2 ∧ first = .mTrig)) :
      SeqEvent s (acceptInto op first s)
  | acceptIllegal (op : OpCode) (hi : s.fsm = .idle) (ho : op = 0b00#2 ∨ op = 0b11#2) :
      SeqEvent s (acceptIllegal op s)
  | issue (r : PortRequest) (hp : s.pend = false) (hr : portRequest s.params s.fsm = some r) :
      SeqEvent s (issue r s)
  | delayDone (nextFsm : Fsm) (hp : s.pend = true) (hd : s.delayDone = true)
      (hs : DelaySucc s.fsm nextFsm) : SeqEvent s { takeDelayDone s with fsm := nextFsm }
  | aborted (r : BusReq) (code : ResultCode) (rx : List Byte) (hp : s.pend = true)
      (hq : portRequest s.params s.fsm = some (.bus r)) (ha : s.busResp = some ⟨code, rx⟩)
      (hc : code = .err ∨ code = .timeout) : SeqEvent s (abort code (takeBusAnswer code rx s))
  | written (rx : List Byte) (nextFsm : Fsm) (hp : s.pend = true) (ha : s.busResp = some ⟨.ok, rx⟩)
      (hl : rx.length = 0) (hs : WriteSucc s.fsm nextFsm) :
      SeqEvent s { takeBusAnswer .ok rx s with fsm := nextFsm }
  | stat1 (rx : List Byte) (hf : s.fsm = .iStat1) (hp : s.pend = true)
      (ha : s.busResp = some ⟨.ok, rx⟩) (hl : rx.length = 1) :
      SeqEvent s (onStat1 rx (takeBusAnswer .ok rx s))
  | stat2 (rx : List Byte) (hf : s.fsm = .iStat2) (hp : s.pend = true)
      (ha : s.busResp = some ⟨.ok, rx⟩) (hl : rx.length = 1) :
      SeqEvent s (onStat2 rx (takeBusAnswer .ok rx s))
  | frameRead (rx : List Byte) (hf : s.fsm = .mRead) (hp : s.pend = true)
      (ha : s.busResp = some ⟨.ok, rx⟩) (hl : rx.length = 7) :
      SeqEvent s { takeBusAnswer .ok rx s with frame := frameOf rx, fsm := .mEval }
  | evaluated (hf : s.fsm = .mEval) : SeqEvent s (evaluate s)

/-- What a state rule answers: one of the block's events, or no change while the answer has not come. -/
abbrev RuleEvent (s t : State) : Prop := SeqEvent s t ∨ (t = s ∧ Unanswered s)

/-- A delay state's event is one of the block's events. -/
theorem delayState_event {ms : Millis} {nextFsm : Fsm} {s t : State}
    (hq : portRequest s.params s.fsm = some (.delay ms)) (hs : DelaySucc s.fsm nextFsm)
    (h : delayState ms nextFsm s = .next t) : RuleEvent s t := by
  obtain ⟨hp, rfl⟩ | ⟨hp, hd, rfl⟩ | ⟨hp, hd, rfl⟩ := delayState_next h
  · exact .inl (.issue _ hp hq)
  · exact .inr ⟨rfl, .delay (by rw [delayPending_eq hq, hp]) hd⟩
  · exact .inl (.delayDone _ hp hd hs)

/-- A bus state's event is one of the block's events, if the handler of its Ok response is. -/
theorem busState_event {req : BusReq} {onOk : List Byte → State → State} {s t : State}
    (hq : portRequest s.params s.fsm = some (.bus req))
    (hok : ∀ rx, s.pend = true → s.busResp = some ⟨.ok, rx⟩ → rx.length = req.rxLen →
      SeqEvent s (onOk rx (takeBusAnswer .ok rx s)))
    (h : busState req onOk s = .next t) : RuleEvent s t := by
  obtain ⟨hp, rfl⟩ | ⟨hp, hr, rfl⟩ | ⟨rx, hp, ha, hl, rfl⟩ | ⟨code, rx, hp, ha, hc, rfl⟩ :=
    busState_next h
  · exact .inl (.issue _ hp hq)
  · exact .inr ⟨rfl, .bus (by rw [busPending_eq hq, hp]) hr⟩
  · exact .inl (hok rx hp ha hl)
  · exact .inl (.aborted req code rx hp hq ha hc)

section StateRules

variable {s t : State}

theorem stateIPwrWait_event (hf : s.fsm = .iPwrWait) (h : stateIPwrWait s = .next t) : RuleEvent s t :=
  delayState_event (by rw [hf]; rfl) (hf ▸ .iPwrWait) h

theorem stateIResetWait_event (hf : s.fsm = .iResetWait) (h : stateIResetWait s = .next t) : RuleEvent s t :=
  delayState_event (by rw [hf]; rfl) (hf ▸ .iResetWait) h

theorem stateICalWait_event (hf : s.fsm = .iCalWait) (h : stateICalWait s = .next t) : RuleEvent s t :=
  delayState_event (by rw [hf]; rfl) (hf ▸ .iCalWait) h

theorem stateMWait_event (hf : s.fsm = .mWait) (h : stateMWait s = .next t) : RuleEvent s t :=
  delayState_event (by rw [hf]; rfl) (hf ▸ .mWait) h

theorem stateIReset_event (hf : s.fsm = .iReset) (h : stateIReset s = .next t) : RuleEvent s t :=
  busState_event (by rw [hf]; rfl) (fun rx hp ha hl => .written rx _ hp ha hl (hf ▸ .iReset)) h

theorem stateICal_event (hf : s.fsm = .iCal) (h : stateICal s = .next t) : RuleEvent s t :=
  busState_event (by rw [hf]; rfl) (fun rx hp ha hl => .written rx _ hp ha hl (hf ▸ .iCal)) h

theorem stateMTrig_event (hf : s.fsm = .mTrig) (h : stateMTrig s = .next t) : RuleEvent s t :=
  busState_event (by rw [hf]; rfl) (fun rx hp ha hl => .written rx _ hp ha hl (hf ▸ .mTrig)) h

theorem stateIStat1_event (hf : s.fsm = .iStat1) (h : stateIStat1 s = .next t) : RuleEvent s t :=
  busState_event (by rw [hf]; rfl) (fun rx hp ha hl => .stat1 rx hf hp ha hl) h

theorem stateIStat2_event (hf : s.fsm = .iStat2) (h : stateIStat2 s = .next t) : RuleEvent s t :=
  busState_event (by rw [hf]; rfl) (fun rx hp ha hl => .stat2 rx hf hp ha hl) h

theorem stateMRead_event (hf : s.fsm = .mRead) (h : stateMRead s = .next t) : RuleEvent s t :=
  busState_event (by rw [hf]; rfl) (fun rx hp ha hl => .frameRead rx hf hp ha hl) h

end StateRules

/-- A host operation's request while another operation runs: it is not accepted (R22). -/
structure HeldBack (i : Instr) (s : State) : Prop where
  host : i = .init ∨ i = .measure ∨ i = .illegal00 ∨ i = .illegal11
  running : s.fsm ≠ .idle
  notFetched : fetch s ≠ .instr i

theorem illegalRequest_event {op : OpCode} {i : Instr} {s t : State} (ho : op = 0b00#2 ∨ op = 0b11#2)
    (hi : i = .illegal00 ∨ i = .illegal11) (h : illegalRequest op s = .next t) :
    SeqEvent s t ∨ (t = s ∧ HeldBack i s) := by
  unfold illegalRequest at h
  split at h
  · next hf => cases h; exact .inl (.acceptIllegal op hf ho)
  · cases h
  · next hf hr =>
    cases h
    refine .inr ⟨rfl, .inr (.inr hi), hf, ?_⟩
    cases hs : s.fsm <;> rcases hi with rfl | rfl <;> simp_all [fetch]

/-- Whatever instruction it is given, `exec` does one of the block's events or changes nothing. -/
theorem exec_event {i : Instr} {s t : State} (h : exec i s = .next t) :
    SeqEvent s t ∨ (t = s ∧ (Unanswered s ∨ HeldBack i s)) := by
  have widen : RuleEvent s t → SeqEvent s t ∨ (t = s ∧ (Unanswered s ∨ HeldBack i s)) :=
    fun h => h.imp_right fun ⟨h, hu⟩ => ⟨h, .inl hu⟩
  cases i with
  | init =>
    change execInit s = _ at h
    unfold execInit at h
    split at h
    · next hf => cases h; exact .inl (.acceptInto _ _ hf (.inl ⟨rfl, rfl⟩))
    · next hf => exact widen (stateIPwrWait_event hf h)
    · next hf => exact widen (stateIReset_event hf h)
    · next hf => exact widen (stateIResetWait_event hf h)
    · next hf => exact widen (stateIStat1_event hf h)
    · next hf => exact widen (stateICal_event hf h)
    · next hf => exact widen (stateICalWait_event hf h)
    · next hf => exact widen (stateIStat2_event hf h)
    all_goals cases h
    all_goals next hf => exact .inr ⟨rfl, .inr ⟨.inl rfl, by simp [hf], by simp [fetch, hf]⟩⟩
  | measure =>
    change execMeasure s = _ at h
    unfold execMeasure at h
    split at h
    · next hf => cases h; exact .inl (.acceptInto _ _ hf (.inr ⟨rfl, rfl⟩))
    · next hf => exact widen (stateMTrig_event hf h)
    · next hf => exact widen (stateMWait_event hf h)
    · next hf => exact widen (stateMRead_event hf h)
    · next hf => cases h; exact .inl (.evaluated hf)
    all_goals cases h
    all_goals next hf =>
      exact .inr ⟨rfl, .inr ⟨.inr (.inl rfl), by simp [hf], by simp [fetch, hf]⟩⟩
  | illegal00 =>
    exact (illegalRequest_event (.inl rfl) (.inl rfl) h).imp_right fun ⟨h, hh⟩ => ⟨h, .inr hh⟩
  | illegal11 =>
    exact (illegalRequest_event (.inr rfl) (.inr rfl) h).imp_right fun ⟨h, hh⟩ => ⟨h, .inr hh⟩
  | devSoftReset =>
    change execDevSoftReset s = _ at h
    unfold execDevSoftReset at h
    split at h
    · next hf => exact widen (stateIReset_event hf h)
    all_goals cases h
  | devReadStatus =>
    change execDevReadStatus s = _ at h
    unfold execDevReadStatus at h
    split at h
    · next hf => exact widen (stateIStat1_event hf h)
    · next hf => exact widen (stateIStat2_event hf h)
    all_goals cases h
  | devCalibrate =>
    change execDevCalibrate s = _ at h
    unfold execDevCalibrate at h
    split at h
    · next hf => exact widen (stateICal_event hf h)
    all_goals cases h
  | devTrigger =>
    change execDevTrigger s = _ at h
    unfold execDevTrigger at h
    split at h
    · next hf => exact widen (stateMTrig_event hf h)
    all_goals cases h

/-- The block has nothing to do on its own (R248, R262). -/
inductive Quiet (s : State) : Prop
  | noRequest (hf : s.fsm = .idle) (hr : s.requests = [])
  | unanswered (h : Unanswered s)

/-- A Sequencer's turn that answers does one of the block's events, or there is none to do. -/
theorem sequencerTurn_event {s t : State} (h : sequencerTurn s = .next t) :
    SeqEvent s t ∨ (t = s ∧ Quiet s) := by
  unfold sequencerTurn at h
  split at h
  · next hf =>
    cases h
    refine .inr ⟨rfl, ?_⟩
    cases hs : s.fsm <;> cases hr : s.requests <;> simp [fetch, hs, hr] at hf
    exact .noRequest hs hr
  · next i hf =>
    obtain h | ⟨rfl, hu | hh⟩ := exec_event h
    · exact .inl h
    · exact .inr ⟨rfl, .unanswered hu⟩
    · exact absurd hf hh.notFetched
  · cases h

/-- One turn of one agent, from `s` to the second state. -/
inductive TurnEvent (s : State) : Turn → State → Prop
  | sequencer {t : State} (h : SeqEvent s t) : TurnEvent s .sequencer t
  | quiet (h : Quiet s) : TurnEvent s .sequencer s
  | request (op : OpCode) : TurnEvent s (.request op) (presentRequest op s)
  | hostRead (reg : HostReg) (v : HostValue) (h : readRegister reg s = .ok v) :
      TurnEvent s (.hostRead reg) (s.emit (.hostRead reg v))
  | busAnswer (code : ResultCode) (rx : List Byte) (hp : s.busPending = true) {t : State}
      (h : SeqEvent (deliverBusAnswer code rx s) t) : TurnEvent s (.busAnswer code rx) t
  | delayDone (hp : s.delayPending = true) {t : State} (h : SeqEvent (deliverDelayDone s) t) :
      TurnEvent s .delayDone t
  | lateAnswer (h : s.abandoned ≠ 0) : TurnEvent s .lateAnswer { s with abandoned := s.abandoned - 1 }
  | reset : TurnEvent s .reset (resetEvent s)

theorem agentTurn_event {turn : Turn} {s t : State} (h : agentTurn turn s = .next t) :
    TurnEvent s turn t := by
  cases turn with
  | sequencer =>
    obtain h | ⟨rfl, hq⟩ := sequencerTurn_event h
    · exact .sequencer h
    · exact .quiet hq
  | request op => cases h; exact .request op
  | hostRead reg =>
    obtain ⟨v, hv, rfl⟩ := hostRead_next h
    exact .hostRead reg v hv
  | busAnswer code rx =>
    simp only [agentTurn] at h
    split at h
    · next hp =>
      obtain h | ⟨rfl, hq⟩ := sequencerTurn_event h
      · exact .busAnswer code rx hp h
      · obtain ⟨_, r, hr⟩ := busPending_iff.1 hp
        obtain ⟨hf, _⟩ | ⟨⟨_, hn⟩ | ⟨hd, _⟩⟩ := hq
        · simp only [deliverBusAnswer_fsm] at hf
          simp [hf, portRequest] at hr
        · cases hn
        · have hd' : s.delayPending = true := hd
          simp [delayPending_iff, hr] at hd'
    · cases h
  | delayDone =>
    simp only [agentTurn] at h
    split at h
    · next hp =>
      obtain h | ⟨rfl, hq⟩ := sequencerTurn_event h
      · exact .delayDone hp h
      · obtain ⟨_, ms, hr⟩ := delayPending_iff.1 hp
        obtain ⟨hf, _⟩ | ⟨⟨hb, _⟩ | ⟨_, hd⟩⟩ := hq
        · simp only [deliverDelayDone_fsm] at hf
          simp [hf, portRequest] at hr
        · have hb' : s.busPending = true := hb
          simp [busPending_iff, hr] at hb'
        · cases hd
    · cases h
  | lateAnswer =>
    obtain ⟨hn, rfl⟩ := lateAnswer_next h
    exact .lateAnswer hn
  | reset => cases h; exact .reset

/-- Within the rules every agent's turn is its own (R20). -/
theorem takeTurn_of_legal {s : State} (hf : s.fsm.code.toNat < 12) (turn : Turn) :
    takeTurn turn s = agentTurn turn s := if_neg fun h => absurd hf (Nat.not_lt.2 h.2)

/-- A reset is taken in every state (R260). -/
theorem takeTurn_reset (s : State) : takeTurn .reset s = .next (resetEvent s) := if_neg fun h => h.1 rfl

/-- With a code that has no meaning in `fsm`, every turn but a reset faults (R94). -/
theorem takeTurn_of_reserved {s : State} {turn : Turn} (hf : 12 ≤ s.fsm.code.toNat)
    (ht : turn ≠ .reset) : takeTurn turn s = .fault .fsmReserved := if_pos ⟨ht, hf⟩

/-- The codes of R94 are those of the constructor `reserved`. -/
theorem reserved_code (low : BitVec 2) : 12 ≤ (Fsm.reserved low).code.toNat := by
  revert low; decide

/-- A state that issues a request holds a code that has a meaning (R92). -/
theorem legal_of_request {p : Params} {f : Fsm} {r : PortRequest} (h : portRequest p f = some r) :
    f.code.toNat < 12 := by
  cases f <;> first | decide | cases h

theorem takeTurn_event {turn : Turn} {s t : State} (h : takeTurn turn s = .next t) :
    TurnEvent s turn t := by
  unfold takeTurn at h
  split at h
  · cases h
  · exact agentTurn_event h

theorem step_eq (s : State) : step s = takeTurn s.nextTurn s.popTurn := by
  cases hs : s.schedule with
  | nil =>
    have : s.popTurn = s := by simp [State.popTurn, hs]; cases s; simp_all
    simp [step, hs, State.nextTurn, this]
  | cons turn rest => simp [step, hs, State.nextTurn, State.popTurn]

/-- Within the rules a step is the turn of the agent whose turn it is. -/
theorem step_of_legal {s : State} (hf : s.fsm.code.toNat < 12) :
    step s = agentTurn s.nextTurn s.popTurn := by
  rw [step_eq]; exact takeTurn_of_legal (s := s.popTurn) hf _

/-- A step that answers is one turn of the agent whose turn it is. -/
theorem step_event {s t : State} (h : step s = .next t) : TurnEvent s.popTurn s.nextTurn t :=
  takeTurn_event (step_eq s ▸ h)

end Sys2Proof.Machine
end

