-- ==== Sys2Proof/Laws/Trace.lean ====
section
/-! SUPPORT. The record of the ports: a step only appends to it, and how `opEvents` reads what is
appended. -/

namespace Sys2Proof.Machine

@[simp] theorem popTurn_fsm (s : State) : s.popTurn.fsm = s.fsm := rfl
@[simp] theorem popTurn_pend (s : State) : s.popTurn.pend = s.pend := rfl
@[simp] theorem popTurn_st (s : State) : s.popTurn.st = s.st := rfl
@[simp] theorem popTurn_frame (s : State) : s.popTurn.frame = s.frame := rfl
@[simp] theorem popTurn_rawT (s : State) : s.popTurn.rawT = s.rawT := rfl
@[simp] theorem popTurn_rawH (s : State) : s.popTurn.rawH = s.rawH := rfl
@[simp] theorem popTurn_done (s : State) : s.popTurn.done = s.done := rfl
@[simp] theorem popTurn_result (s : State) : s.popTurn.result = s.result := rfl
@[simp] theorem popTurn_errCause (s : State) : s.popTurn.errCause = s.errCause := rfl
@[simp] theorem popTurn_temp (s : State) : s.popTurn.temp = s.temp := rfl
@[simp] theorem popTurn_hum (s : State) : s.popTurn.hum = s.hum := rfl
@[simp] theorem popTurn_hasReading (s : State) : s.popTurn.hasReading = s.hasReading := rfl
@[simp] theorem popTurn_params (s : State) : s.popTurn.params = s.params := rfl
@[simp] theorem popTurn_requests (s : State) : s.popTurn.requests = s.requests := rfl
@[simp] theorem popTurn_busResp (s : State) : s.popTurn.busResp = s.busResp := rfl
@[simp] theorem popTurn_delayDone (s : State) : s.popTurn.delayDone = s.delayDone := rfl
@[simp] theorem popTurn_abandoned (s : State) : s.popTurn.abandoned = s.abandoned := rfl
@[simp] theorem popTurn_schedule (s : State) : s.popTurn.schedule = s.schedule.tail := rfl
@[simp] theorem popTurn_trace (s : State) : s.popTurn.trace = s.trace := rfl
@[simp] theorem popTurn_busPending (s : State) : s.popTurn.busPending = s.busPending := rfl
@[simp] theorem popTurn_delayPending (s : State) : s.popTurn.delayPending = s.delayPending := rfl

/-- What a state appended to the record is the new events. -/
theorem eventsSince_of_append {s t : State} {events : List PortEvent} (h : t.trace = s.trace ++ events) :
    s.eventsSince t = events := by
  simp [State.eventsSince, h]

/-- Only the record matters for what is new. -/
theorem eventsSince_congr {s s' t : State} (h : s.trace = s'.trace) :
    s.eventsSince t = s'.eventsSince t := by
  simp [State.eventsSince, h]

/-- Only the record matters for what is new. -/
@[simp] theorem popTurn_eventsSince (s t : State) : s.popTurn.eventsSince t = s.eventsSince t := rfl

@[simp] theorem onStat1_trace (rx : List Byte) (s : State) : (onStat1 rx s).trace = s.trace := rfl

/-- The second status read adds its completion. -/
theorem onStat2_trace (rx : List Byte) (s : State) :
    ∃ r c, (onStat2 rx s).trace = s.trace ++ [.complete r c] := by
  unfold onStat2
  split
  · exact ⟨.ok, .none, rfl⟩
  · exact ⟨.err, .calibrationFailure, rfl⟩

/-- A failed response adds a completion with its own code and TRANSPORT. -/
theorem abort_of_failed {code : ResultCode} (hc : code = .err ∨ code = .timeout) (s : State) :
    abort code s = complete code .transport none s := by
  rcases hc with rfl | rfl <;> rfl

/-- The evaluation adds one completion. -/
theorem evaluate_trace (s : State) : ∃ r c, (evaluate s).trace = s.trace ++ [.complete r c] := by
  obtain ⟨_, h⟩ | ⟨_, _, h⟩ | ⟨_, _, h⟩ := evaluate_cases s <;> rw [h]
  · exact ⟨_, _, rfl⟩
  · exact ⟨_, _, rfl⟩
  · exact ⟨_, _, rfl⟩

/-- An event of the block only appends to the record. -/
theorem SeqEvent.trace {s t : State} (h : SeqEvent s t) : ∃ events, t.trace = s.trace ++ events := by
  cases h with
  | acceptInto op first => exact ⟨_, rfl⟩
  | acceptIllegal op =>
    exact ⟨[.accept op, .complete .err .illegalOp], by simp⟩
  | issue r => exact ⟨_, rfl⟩
  | delayDone nextFsm => exact ⟨_, rfl⟩
  | aborted r code rx _ _ _ hc =>
    exact ⟨[.busAnswer code rx, .complete code .transport], by simp [abort_of_failed hc]⟩
  | written rx => exact ⟨_, rfl⟩
  | stat1 rx => exact ⟨_, rfl⟩
  | stat2 rx =>
    obtain ⟨r, c, h⟩ := onStat2_trace rx (takeBusAnswer .ok rx s)
    exact ⟨[.busAnswer .ok rx, .complete r c], by simp [h]⟩
  | frameRead rx => exact ⟨_, rfl⟩
  | evaluated =>
    obtain ⟨r, c, h⟩ := evaluate_trace s
    exact ⟨_, h⟩

/-- What `opEvents` does with one more event. -/
@[simp] theorem opEvents_append (trace : List PortEvent) (e : PortEvent) :
    opEvents (trace ++ [e]) = opEventsStep (opEvents trace) e := by
  simp [opEvents, List.foldl_append]

/-- The state in which the block's own event of a step happens: with its turn taken off the schedule and, at
an answer's turn, the answer at its port. -/
inductive Delivered (s : State) : State → Prop
  | own (hn : s.nextTurn = .sequencer) : Delivered s s.popTurn
  | bus (code : ResultCode) (rx : List Byte) (hn : s.nextTurn = .busAnswer code rx)
      (hp : s.busPending = true) : Delivered s (deliverBusAnswer code rx s.popTurn)
  | delay (hn : s.nextTurn = .delayDone) (hp : s.delayPending = true) :
      Delivered s (deliverDelayDone s.popTurn)

section Delivered

variable {s u : State}

theorem Delivered.fsm (h : Delivered s u) : u.fsm = s.fsm := by cases h <;> rfl
theorem Delivered.pend (h : Delivered s u) : u.pend = s.pend := by cases h <;> rfl
theorem Delivered.st (h : Delivered s u) : u.st = s.st := by cases h <;> rfl
theorem Delivered.frame (h : Delivered s u) : u.frame = s.frame := by cases h <;> rfl
theorem Delivered.rawT (h : Delivered s u) : u.rawT = s.rawT := by cases h <;> rfl
theorem Delivered.rawH (h : Delivered s u) : u.rawH = s.rawH := by cases h <;> rfl
theorem Delivered.done (h : Delivered s u) : u.done = s.done := by cases h <;> rfl
theorem Delivered.result (h : Delivered s u) : u.result = s.result := by cases h <;> rfl
theorem Delivered.errCause (h : Delivered s u) : u.errCause = s.errCause := by cases h <;> rfl
theorem Delivered.temp (h : Delivered s u) : u.temp = s.temp := by cases h <;> rfl
theorem Delivered.hum (h : Delivered s u) : u.hum = s.hum := by cases h <;> rfl
theorem Delivered.hasReading (h : Delivered s u) : u.hasReading = s.hasReading := by cases h <;> rfl
theorem Delivered.params (h : Delivered s u) : u.params = s.params := by cases h <;> rfl
theorem Delivered.requests (h : Delivered s u) : u.requests = s.requests := by cases h <;> rfl
theorem Delivered.abandoned (h : Delivered s u) : u.abandoned = s.abandoned := by cases h <;> rfl
theorem Delivered.trace (h : Delivered s u) : u.trace = s.trace := by cases h <;> rfl
theorem Delivered.schedule (h : Delivered s u) : u.schedule = s.schedule.tail := by cases h <;> rfl

theorem Delivered.eventsSince (h : Delivered s u) (t : State) : s.eventsSince t = u.eventsSince t :=
  eventsSince_congr h.trace.symm

/-- From a state whose ports are clear, the response that is there is the one this turn delivers. -/
theorem Delivered.busResp (h : Delivered s u) (hc : s.busResp = none) {code : ResultCode} {rx : List Byte}
    (hr : u.busResp = some ⟨code, rx⟩) : s.busPending = true ∧ s.nextTurn = .busAnswer code rx := by
  cases h with
  | own hn => simp [hc] at hr
  | bus c x hn hp =>
    simp only [deliverBusAnswer_busResp, Option.some.injEq, BusResp.mk.injEq] at hr
    exact ⟨hp, by rw [hn, hr.1, hr.2]⟩
  | delay hn hp => simp [hc] at hr

/-- From a state whose ports are clear, the done that is there is the one this turn delivers. -/
theorem Delivered.delayDone (h : Delivered s u) (hc : s.delayDone = false) (hd : u.delayDone = true) :
    s.delayPending = true ∧ s.nextTurn = .delayDone := by
  cases h with
  | own hn => simp [hc] at hd
  | bus c x hn hp => simp [hc] at hd
  | delay hn hp => exact ⟨hp, hn⟩

end Delivered

/-- Everything a step that answers can be. -/
theorem step_cases {s t : State} (h : step s = .next t) :
    (∃ u, Delivered s u ∧ SeqEvent u t)
    ∨ (s.nextTurn = .sequencer ∧ Quiet s ∧ t = s.popTurn)
    ∨ (∃ op, s.nextTurn = .request op ∧ t = presentRequest op s.popTurn)
    ∨ (∃ reg v, s.nextTurn = .hostRead reg ∧ readRegister reg s = .ok v
        ∧ t = s.popTurn.emit (.hostRead reg v))
    ∨ (s.nextTurn = .lateAnswer ∧ s.abandoned ≠ 0 ∧ t = { s.popTurn with abandoned := s.abandoned - 1 })
    ∨ (s.nextTurn = .reset ∧ t = resetEvent s.popTurn) := by
  have e := step_event h
  generalize hn : s.nextTurn = n at e
  cases e with
  | sequencer e => exact .inl ⟨_, .own hn, e⟩
  | quiet hq =>
    refine .inr (.inl ⟨rfl, ?_, rfl⟩)
    obtain ⟨hf, hr⟩ | ⟨⟨hp, hr⟩ | ⟨hp, hd⟩⟩ := hq
    · exact .noRequest hf hr
    · exact .unanswered (.bus hp hr)
    · exact .unanswered (.delay hp hd)
  | busAnswer code rx hp e => exact .inl ⟨_, .bus code rx hn hp, e⟩
  | delayDone hp e => exact .inl ⟨_, .delay hn hp, e⟩
  | request op => exact .inr (.inr (.inl ⟨op, rfl, rfl⟩))
  | hostRead reg v hv =>
    exact .inr (.inr (.inr (.inl ⟨reg, v, rfl, hv ▸ (by cases reg <;> rfl), rfl⟩)))
  | lateAnswer ha => exact .inr (.inr (.inr (.inr (.inl ⟨rfl, ha, rfl⟩))))
  | reset => exact .inr (.inr (.inr (.inr (.inr ⟨rfl, rfl⟩))))

/-- The second status read completes by its CAL bit. -/
theorem onStat2_cases (rx : List Byte) (s : State) :
    (calFlag (statusOf rx) = true ∧ onStat2 rx s = complete .ok .none none { s with st := statusOf rx })
    ∨ (calFlag (statusOf rx) = false
        ∧ onStat2 rx s = complete .err .calibrationFailure none { s with st := statusOf rx }) := by
  unfold onStat2
  cases calFlag (statusOf rx) <;> simp

end Sys2Proof.Machine
end

