-- ==== Sys2Proof/Laws/Fetch.lean ====
section
/-! SUPPORT. What the block runs in a state that issues a request: the event of that request. -/

namespace Sys2Proof.Machine

/-- In a state that issues a bus request, the instruction fetched does that bus state's event. -/
theorem fetch_bus {s : State} {r : BusReq} (h : portRequest s.params s.fsm = some (.bus r)) :
    ∃ i, fetch s = .instr i ∧
      ∃ onOk, ∀ t : State, t.fsm = s.fsm → t.params = s.params → exec i t = busState r onOk t := by
  cases hf : s.fsm <;> rw [hf] at h <;> cases h
  · exact ⟨.devSoftReset, by simp [fetch, hf], _, fun t ht hp => by
      rw [← hp]; simp only [exec, execDevSoftReset, ht]; rfl⟩
  · exact ⟨.devReadStatus, by simp [fetch, hf], _, fun t ht hp => by
      rw [← hp]; simp only [exec, execDevReadStatus, ht]; rfl⟩
  · exact ⟨.devCalibrate, by simp [fetch, hf], _, fun t ht hp => by
      rw [← hp]; simp only [exec, execDevCalibrate, ht]; rfl⟩
  · exact ⟨.devReadStatus, by simp [fetch, hf], _, fun t ht hp => by
      rw [← hp]; simp only [exec, execDevReadStatus, ht]; rfl⟩
  · exact ⟨.devTrigger, by simp [fetch, hf], _, fun t ht hp => by
      rw [← hp]; simp only [exec, execDevTrigger, ht]; rfl⟩
  · exact ⟨.measure, by simp [fetch, hf], _, fun t ht hp => by
      rw [← hp]; simp only [exec, execMeasure, ht]; rfl⟩

/-- In a state that issues a delay request, the instruction fetched does that delay state's event. -/
theorem fetch_delay {s : State} {ms : Millis} (h : portRequest s.params s.fsm = some (.delay ms)) :
    ∃ i, fetch s = .instr i ∧
      ∃ nextFsm, ∀ t : State, t.fsm = s.fsm → exec i t = delayState ms nextFsm t := by
  cases hf : s.fsm <;> rw [hf] at h <;> cases h
  · exact ⟨.init, by simp [fetch, hf], .iReset, fun t ht => by simp only [exec, execInit, ht]; rfl⟩
  · exact ⟨.init, by simp [fetch, hf], .iStat1, fun t ht => by simp only [exec, execInit, ht]; rfl⟩
  · exact ⟨.init, by simp [fetch, hf], .iStat2, fun t ht => by simp only [exec, execInit, ht]; rfl⟩
  · exact ⟨.measure, by simp [fetch, hf], .mRead, fun t ht => by simp only [exec, execMeasure, ht]; rfl⟩

/-- The step that delivers a response to an outstanding bus request is that request's answer event. -/
theorem step_busAnswer {s : State} {r : BusReq} {code : ResultCode} {rx : List Byte}
    (hp : s.pend = true) (hq : portRequest s.params s.fsm = some (.bus r))
    (hn : s.nextTurn = .busAnswer code rx) :
    ∃ onOk, step s = busAnswer r onOk ⟨code, rx⟩ (deliverBusAnswer code rx s.popTurn) := by
  obtain ⟨i, hi, onOk, h⟩ := fetch_bus hq
  have hb : s.busPending = true := by rw [busPending_eq hq, hp]
  have hi' : fetch (deliverBusAnswer code rx s.popTurn) = .instr i := hi
  refine ⟨onOk, ?_⟩
  rw [step_of_legal (legal_of_request hq), hn]
  simp only [agentTurn, popTurn_busPending, hb, if_true, sequencerTurn, hi']
  rw [h (deliverBusAnswer code rx s.popTurn) rfl rfl]
  simp [busState, hp]

/-- The step that delivers a done to an outstanding delay request moves to the state's successor. -/
theorem step_delayDone {s : State} {ms : Millis} (hp : s.pend = true)
    (hq : portRequest s.params s.fsm = some (.delay ms)) (hn : s.nextTurn = .delayDone) :
    ∃ nextFsm, step s = .next { takeDelayDone (deliverDelayDone s.popTurn) with fsm := nextFsm } := by
  obtain ⟨i, hi, nextFsm, h⟩ := fetch_delay hq
  have hb : s.delayPending = true := by rw [delayPending_eq hq, hp]
  have hi' : fetch (deliverDelayDone s.popTurn) = .instr i := hi
  refine ⟨nextFsm, ?_⟩
  rw [step_of_legal (legal_of_request hq), hn]
  simp only [agentTurn, popTurn_delayPending, hb, if_true, sequencerTurn, hi']
  rw [h (deliverDelayDone s.popTurn) rfl]
  simp [delayState, hp]

end Sys2Proof.Machine
end

