-- ==== Sys2Proof/Laws/PerInstr.lean ====
section
/-! SUPPORT. What holds of every instruction's code word, one lemma per constructor. -/

namespace Sys2Proof.Laws.CodeWord

/-- The code word of an instruction has a length of R95, whatever the parameters are. -/
def Statement (i : Instr) : Prop := ∀ p : Params, (encode p i).lengthOk = true

theorem init : Statement .init := fun _ => rfl

theorem measure : Statement .measure := fun _ => rfl

theorem illegal00 : Statement .illegal00 := fun _ => rfl

theorem illegal11 : Statement .illegal11 := fun _ => rfl

theorem devSoftReset : Statement .devSoftReset := fun _ => rfl

theorem devReadStatus : Statement .devReadStatus := fun _ => rfl

theorem devCalibrate : Statement .devCalibrate := fun _ => rfl

theorem devTrigger : Statement .devTrigger := fun _ => rfl

end Sys2Proof.Laws.CodeWord
end

