-- ==== Sys2Proof/Tests/Slice0.lean ====
section
/-! SUPPORT. Tests on fixed values: expected results are the tables and examples of spec/, cited at each. The
second half gives, for each statement with hypotheses, states that meet them. -/

namespace Sys2Proof.Tests

open Sys2Proof Sys2Proof.Machine

/-! ### Well-formed terms, and an ill-formed one for each check -/

/-- Parameters that give both 1-byte commands the same value. -/
def equalShort : Params := { defaultParams with cmdReadStatus := 0xBA#8 }

/-- Parameters that give both 3-byte commands the same value. -/
def equalLong : Params := { defaultParams with cmdTrigger := ⟨0xBE#8, 0x08#8, 0x00#8⟩ }

theorem test_wellFormed_defaults :
    [Instr.init, .measure, .illegal00, .illegal11, .devSoftReset, .devReadStatus, .devCalibrate,
      .devTrigger].map (Instr.WellFormed defaultParams)
    = [true, true, true, true, true, true, true, true] := by decide

theorem test_illFormed_equal_short :
    Instr.devSoftReset.WellFormed equalShort = false ∧ Instr.devReadStatus.WellFormed equalShort = false
    ∧ decode equalShort (.wire [0xBA#8]) = .error .ambiguousCommand := by decide

theorem test_illFormed_equal_long :
    Instr.devCalibrate.WellFormed equalLong = false ∧ Instr.devTrigger.WellFormed equalLong = false
    ∧ decode equalLong (.wire [0xBE#8, 0x08#8, 0x00#8]) = .error .ambiguousCommand := by decide

/-- R95: 1 or 3 bytes. -/
theorem test_illFormed_length :
    (Code.wire []).lengthOk = false ∧ (Code.wire [0xBA#8, 0#8]).lengthOk = false
    ∧ (Code.wire [0xBE#8, 0x08#8, 0x00#8, 0x00#8]).lengthOk = false ∧ (Code.wire [0xBA#8]).lengthOk = true
    ∧ (Code.wire [0xBE#8, 0x08#8, 0x00#8]).lengthOk = true := by decide

/-! ### Decoding, from words written out from R80 and R88 -/

theorem test_decode_init : decode defaultParams (.hostOp 0b01#2) = .ok .init := by decide

theorem test_decode_measure : decode defaultParams (.hostOp 0b10#2) = .ok .measure := by decide

theorem test_decode_illegal00 : decode defaultParams (.hostOp 0b00#2) = .ok .illegal00 := by decide

theorem test_decode_illegal11 : decode defaultParams (.hostOp 0b11#2) = .ok .illegal11 := by decide

/-- `BA` -/
theorem test_decode_softReset : decode defaultParams (.wire [0b10111010#8]) = .ok .devSoftReset := by decide

/-- `71` -/
theorem test_decode_readStatus :
    decode defaultParams (.wire [0b01110001#8]) = .ok .devReadStatus := by decide

/-- `BE 08 00` -/
theorem test_decode_calibrate :
    decode defaultParams (.wire [0b10111110#8, 0b00001000#8, 0b00000000#8]) = .ok .devCalibrate := by decide

/-- `AC 33 00` -/
theorem test_decode_trigger :
    decode defaultParams (.wire [0b10101100#8, 0b00110011#8, 0b00000000#8]) = .ok .devTrigger := by decide

theorem test_decode_rejects :
    decode defaultParams (.wire [0x72#8]) = .error .unknownCommand
    ∧ decode defaultParams (.wire [0x00#8, 0x08#8, 0xBE#8]) = .error .unknownCommand
    ∧ decode defaultParams (.wire [0xAC#8, 0x33#8]) = .error .wireLength := by decide

/-- The rows of spec/opcode_table.json. -/
theorem test_decode_table :
    [decodeTableWord 8 0b01, decodeTableWord 8 0b10, decodeTableWord 8 0b00, decodeTableWord 8 0b11,
      decodeTableWord 8 0xBA, decodeTableWord 8 0x71, decodeTableWord 24 0xBE0800,
      decodeTableWord 24 0xAC3300]
    = [some .init, some .measure, some .illegal00, some .illegal11, some .devSoftReset, some .devReadStatus,
      some .devCalibrate, some .devTrigger] := by decide

/-! ### Functions, from 95_test_vectors.md -/

/-- L2-1. -/
theorem test_statusCheck :
    [0x18#8, 0x08#8, 0x1C#8, 0x00#8, 0x10#8, 0x77#8, 0x80#8, 0x88#8, 0xF7#8, 0xFF#8].map statusCheck
    = [.none, .none, .none, .notCalibrated, .notCalibrated, .notCalibrated, .sensorBusy, .sensorBusy,
      .sensorBusy, .sensorBusy] := by decide

set_option maxRecDepth 4000 in
/-- L2-2, with the catalogued check value F7. -/
theorem test_crc8 :
    [crc8 [], crc8 [0xFF#8], crc8 [0x00#8],
      crc8 [0x31#8, 0x32#8, 0x33#8, 0x34#8, 0x35#8, 0x36#8, 0x37#8, 0x38#8, 0x39#8],
      crc8 [0x18#8, 0x12#8, 0x34#8, 0x56#8, 0x78#8, 0x9A#8]]
    = [0xFF#8, 0x00#8, 0xAC#8, 0xF7#8, 0x85#8] := by decide

/-- The frame `1C 6B 85 15 EB 85 57` of L2-3 and M-j. -/
def frameJ : Frame := ⟨0x1C#8, 0x6B#8, 0x85#8, 0x15#8, 0xEB#8, 0x85#8, 0x57#8⟩

/-- The frame `18 80 00 04 00 00 AF` of L2-3 and M-h. -/
def frameH : Frame := ⟨0x18#8, 0x80#8, 0x00#8, 0x04#8, 0x00#8, 0x00#8, 0xAF#8⟩

/-- L2-3. -/
theorem test_unpack :
    unpackH frameJ = 0x6B851#20 ∧ unpackT frameJ = 0x5EB85#20
    ∧ unpackH frameH = 0x80000#20 ∧ unpackT frameH = 0x40000#20 := by decide

set_option maxRecDepth 4000 in
/-- L1-7. -/
theorem test_pack :
    pack 0x18#8 0x12345#20 0x6789A#20 = ⟨0x18#8, 0x12#8, 0x34#8, 0x56#8, 0x78#8, 0x9A#8, 0x85#8⟩ := by decide

/-- L2-4, TEMP. -/
theorem test_convT64 :
    [0x00000#20, 0x00001#20, 0x3FFFF#20, 0x40000#20, 0x5C28F#20, 0xA3D71#20, 0xFFFFF#20].map convT64
    = [0xC049000000000000#64, 0xC048FFF9C0000000#64, 0xBF29000000000000#64, 0x0000000000000000#64,
      0x4035FFFB80000000#64, 0x4053800120000000#64, 0x4062BFFE70000000#64] := by decide

/-- L2-4, HUM. -/
theorem test_convH64 :
    [0x00000#20, 0x00001#20, 0x66666#20, 0x80000#20, 0xFFFFF#20].map convH64
    = [0x0000000000000000#64, 0x3F19000000000000#64, 0x4043FFFEC0000000#64, 0x4049000000000000#64,
      0x4058FFFE70000000#64] := by decide

/-- R219's examples and the binary32 patterns of L2-7. -/
theorem test_conv32 :
    [convT32 0xFFFFF#20, convT32 0xA3D71#20, convT32 0x5C28F#20, convH32 0xFFFFF#20, convH32 0x66666#20]
    = [0x4315FFF4#32, 0x429C0008#32, 0x41AFFFDC#32, 0x42C7FFF4#32, 0x421FFFF6#32] := by decide

/-! ### One step on a small state -/

/-- A state in `f` with `pend` and the coming turns given, and the rest as after reset. -/
def stand (f : Fsm) (pend : Bool) (turns : List Turn) : State :=
  { State.reset with fsm := f, pend := pend, schedule := turns }

/-- What is read off the state after one step. -/
def after {α : Type} (read : State → α) (s : State) : Option α :=
  match step s with
  | .next t => some (read t)
  | .fault _ => none
  | .refused _ => none

/-- The state in which the frame `f` is evaluated. -/
def evaluating (f : Frame) : State := { stand .mEval false [] with frame := f }

/-- The name of the stop, where a step stops. -/
def stop (s : State) : Option (Fault ⊕ Refusal) :=
  match step s with
  | .next _ => none
  | .fault f => some (.inl f)
  | .refused r => some (.inr r)

/-- INIT (R110): Accept leaves RESULT as it was and goes to I_PWR_WAIT. -/
theorem test_init_accept :
    after (fun t => (t.fsm, t.done, t.result)) { State.reset with requests := [0b01#2], done := true }
    = some (.iPwrWait, false, .err) := by decide

/-- INIT (R111): the first port event is a delay of 40 ms. -/
theorem test_init_first_delay :
    after (fun t => requestsIn t.trace) (stand .iPwrWait false []) = some [.delay 40#16] := by decide

set_option maxRecDepth 4000 in
/-- MEASURE, M-e of L2-7. -/
theorem test_measure_ok :
    after (fun t => (t.result, t.errCause, t.temp, t.hum, t.hasReading))
      (evaluating ⟨0x1C#8, 0x66#8, 0x66#8, 0x65#8, 0xC2#8, 0x8F#8, 0xB3#8⟩)
    = some (.ok, .none, .binary64 0x4035FFFB80000000#64, .binary64 0x4043FFFEC0000000#64, true) := by decide

set_option maxRecDepth 4000 in
/-- MEASURE, M-l, M-o, M-p and M-s of L2-7: one wrong byte, and the priority of the checks. -/
theorem test_measure_failures :
    [evaluating { frameH with b6 := 0xAE#8 },
      evaluating { frameH with b0 := 0x80#8, b6 := 0x1C#8 },
      evaluating { frameH with b0 := 0x10#8, b6 := 0x75#8 },
      evaluating { frameH with b0 := 0x88#8, b6 := 0x00#8 }].map
        (after (fun t => (t.result, t.errCause, t.hasReading)))
    = [some (.err, .dataCorruption, false), some (.err, .sensorBusy, false),
      some (.err, .notCalibrated, false), some (.err, .sensorBusy, false)] := by decide

/-- ILLEGAL_00, H-a of L2-8. -/
theorem test_illegal00 :
    after (fun t => (t.done, t.result.code, t.errCause.code, t.fsm.code))
      { State.reset with requests := [0b00#2] }
    = some (true, 0b01#2, 0b110#3, 0b0000#4) := by decide

/-- ILLEGAL_11, H-b of L2-8: no port event. -/
theorem test_illegal11 :
    after (fun t => (t.errCause, requestsIn t.trace)) { State.reset with requests := [0b11#2] }
    = some (.illegalOp, []) := by decide

/-- DEV_SOFT_RESET (R112): WRITE to 0x38 of `[BA]`. -/
theorem test_softReset_request :
    after (fun t => requestsIn t.trace) (stand .iReset false [])
    = some [.bus ⟨.write, 0x38#7, [0xBA#8], 0⟩] := by decide

/-- DEV_SOFT_RESET, I-g of L2-6: answered Err. -/
theorem test_softReset_failed :
    after (fun t => (t.result, t.errCause, t.fsm)) (stand .iReset true [.busAnswer .err []])
    = some (.err, .transport, .idle) := by decide

/-- DEV_READ_STATUS (R114): 0x08 and 0xFF skip the calibrate command, 0x10 and 0xF7 send it. -/
theorem test_readStatus_first :
    [0x08#8, 0xFF#8, 0x10#8, 0xF7#8].map
      (fun b => after (fun t => (t.fsm, t.st)) (stand .iStat1 true [.busAnswer .ok [b]]))
    = [some (.iCalWait, 0x08#8), some (.iCalWait, 0xFF#8), some (.iCal, 0x10#8), some (.iCal, 0xF7#8)] := by
  decide

/-- DEV_READ_STATUS (R117): `18` completes Ok and `10` does not. -/
theorem test_readStatus_second :
    [0x18#8, 0x10#8].map
      (fun b => after (fun t => (t.result, t.errCause)) (stand .iStat2 true [.busAnswer .ok [b]]))
    = [some (.ok, .none), some (.err, .calibrationFailure)] := by decide

/-- DEV_CALIBRATE (R115): WRITE to 0x38 of `[BE, 08, 00]`. -/
theorem test_calibrate_request :
    after (fun t => requestsIn t.trace) (stand .iCal false [])
    = some [.bus ⟨.write, 0x38#7, [0xBE#8, 0x08#8, 0x00#8], 0⟩] := by decide

/-- DEV_CALIBRATE, I-i of L2-6: answered Timeout. -/
theorem test_calibrate_timeout :
    after (fun t => (t.result, t.errCause)) (stand .iCal true [.busAnswer .timeout []])
    = some (.timeout, .transport) := by decide

/-- DEV_TRIGGER (R141): WRITE to 0x38 of `[AC, 33, 00]`. -/
theorem test_trigger_request :
    after (fun t => requestsIn t.trace) (stand .mTrig false [])
    = some [.bus ⟨.write, 0x38#7, [0xAC#8, 0x33#8, 0x00#8], 0⟩] := by decide

/-- DEV_TRIGGER, answered Ok (R141). -/
theorem test_trigger_ok :
    after (fun t => (t.fsm, t.pend)) (stand .mTrig true [.busAnswer .ok []]) = some (.mWait, false) := by
  decide

/-- H-e of L2-8, and H-f, which has a value. -/
theorem test_read_after_reset :
    stop (stand .idle false [.hostRead .temp]) = some (.inl .noReading)
    ∧ stop (stand .idle false [.hostRead .result]) = none := by decide

/-- R94: the codes 1100 and 1111 fault at every agent's turn; R260: a reset may arrive at any time. -/
theorem test_reserved_fsm_faults :
    ([0b00#2, 0b11#2].flatMap fun low =>
      [Turn.sequencer, .request 0b01#2, .hostRead .busy, .busAnswer .ok [], .delayDone, .lateAnswer].map
        fun turn => stop (stand (.reserved low) true [turn]))
      = List.replicate 12 (some (.inl .fsmReserved))
    ∧ after State.fsm (stand (.reserved 0b11#2) true [.reset]) = some .idle := by decide

/-- The placed word of each row runs from reset. -/
theorem test_withFetchWord :
    [(8, 1), (8, 2), (8, 0), (8, 3), (8, 0xBA), (8, 0x71), (24, 0xBE0800), (24, 0xAC3300)].map
      (fun (nbits, w) => after State.fsm (State.reset.withFetchWord nbits w))
    = [some .iPwrWait, some .mTrig, some .idle, some .idle, some .iReset, some .iStat1, some .iCal,
      some .mTrig] := by decide

/-! ### States that meet the hypotheses of the statements -/

/-- A state with an answer standing at the bus port. -/
def answered (f : Fsm) (code : ResultCode) (rx : List Byte) : State :=
  { stand f true [] with busResp := some ⟨code, rx⟩ }

/-- A state with a done standing at the delay port. -/
def delayed (f : Fsm) : State := { stand f true [] with delayDone := true }

/-- An idle block with the requests given. -/
def requesting (ops : List OpCode) : State := { State.reset with requests := ops }

/-- A state whose result registers are as after reset, between events, meets the invariant. -/
theorem inv_of_reset_registers {s : State} (hf : s.fsm.code.toNat < 12)
    (hp : s.pend = true → (portRequest s.params s.fsm).isSome = true) (hd : s.done = false)
    (hr : s.result = .err) (hc : s.errCause = .none)
    (hv : readingFits s.params.floatFormat s.temp s.hum = true) (hb : s.busResp = none) (hy : s.delayDone = false) : s.Inv where
  fsmLegal := hf
  pendOnRequest := hp
  doneIdle := by simp [hd]
  resultLegal := by simp [hr]
  causeLegal := by simp [hc]
  okHasNoCause := fun _ => hc
  noCauseIsOk := by simp [hd]
  reading := hv
  portsClear := ⟨hb, hy⟩

theorem stand_inv {f : Fsm} {pend : Bool} {turns : List Turn} (hf : f.code.toNat < 12)
    (hp : pend = true → (portRequest defaultParams f).isSome = true) : (stand f pend turns).Inv :=
  inv_of_reset_registers hf hp rfl rfl rfl rfl rfl rfl

theorem evaluating_inv (f : Frame) : (evaluating f).Inv :=
  inv_of_reset_registers (show Fsm.mEval.code.toNat < 12 by decide) nofun rfl rfl rfl rfl rfl rfl

theorem requesting_inv (ops : List OpCode) : (requesting ops).Inv :=
  inv_of_reset_registers (show Fsm.idle.code.toNat < 12 by decide) nofun rfl rfl rfl rfl rfl rfl

theorem test_witness_DecodeEncodeRoundTrip :
    decode defaultParams (.wire [0xBE#8, 0x08#8, 0x00#8]) = .ok .devCalibrate
    ∧ (Code.wire []).lengthOk = false ∧ (Code.wire [0xBA#8, 0#8]).lengthOk = false := by decide

theorem test_witness_StateCodesAndRequests : Fsm.mEval.code = 0b1011#4 := by decide

theorem test_witness_StepRunsFetchedInstruction :
    (fetch (stand .iPwrWait false []) = .instr .init ∧ (stand .iPwrWait false []).nextTurn = .sequencer)
    ∧ (fetch (stand .iReset true [.busAnswer .ok []]) = .instr .devSoftReset
      ∧ (stand .iReset true [.busAnswer .ok []]).nextTurn = .busAnswer .ok []
      ∧ (stand .iReset true [.busAnswer .ok []]).busPending = true)
    ∧ (fetch (stand .mWait true [.delayDone]) = .instr .measure
      ∧ (stand .mWait true [.delayDone]).nextTurn = .delayDone
      ∧ (stand .mWait true [.delayDone]).delayPending = true)
    ∧ ((requesting [0b11#2]).fsm = .idle ∧ (requesting [0b11#2]).requests = 0b11#2 :: [])
    ∧ (portRequest defaultParams .mTrig = some (.bus (triggerReq defaultParams))
      ∧ (triggerReq defaultParams).tx ≠ [])
    ∧ (State.reset.fsm = .idle ∧ State.reset.requests = [] ∧ State.reset.nextTurn = .sequencer)
    ∧ ((stand (.reserved 0b00#2) false [.hostRead .busy]).fsm = .reserved 0b00#2
      ∧ (stand (.reserved 0b00#2) false [.hostRead .busy]).nextTurn ≠ .reset) := by decide

theorem test_witness_PlacedWordRunsNext :
    decodeTableWord 8 0 = some .illegal00 ∧ decodeTableWord 8 3 = some .illegal11
    ∧ decodeTableWord 24 0xAC3300 = some .devTrigger := by decide

theorem test_witness_HostRequestPort_accept :
    [0b00#2, 0b01#2, 0b10#2, 0b11#2].map
      (fun op => ((requesting [op]).fsm, (requesting [op]).requests, (requesting [op]).nextTurn))
    = [(.idle, [0b00#2], .sequencer), (.idle, [0b01#2], .sequencer), (.idle, [0b10#2], .sequencer),
      (.idle, [0b11#2], .sequencer)] := by decide

theorem test_witness_HostRequestPort_accepted :
    ∃ t, step (requesting [0b10#2]) = .next t ∧ .accept 0b10#2 ∈ (requesting [0b10#2]).eventsSince t :=
  ⟨_, rfl, by decide⟩

theorem test_witness_HostRequestPort_waits :
    (∃ t, step (stand .iStat1 true [.request 0b10#2]) = .next t ∧ t.requests = [0b10#2])
    ∧ (stand .iStat1 true [.request 0b10#2]).fsm ≠ .idle := ⟨⟨_, rfl, by decide⟩, by decide⟩

/-- For OperationsAccepted and IllegalRequestCompletes. -/
theorem test_witness_idle : State.reset.fsm = .idle := by decide

theorem test_witness_RunningOperationKeepsRequestWaiting :
    (stand .mTrig false []).fsm ∈ [Fsm.mTrig, .mWait, .mRead, .mEval]
    ∧ (stand .mEval false []).fsm ∈ [Fsm.mTrig, .mWait, .mRead, .mEval]
    ∧ (stand .iPwrWait true []).fsm ∈
      [Fsm.iPwrWait, .iReset, .iResetWait, .iStat1, .iCal, .iCalWait, .iStat2]
    ∧ (stand .iStat2 true []).fsm ∈
      [Fsm.iPwrWait, .iReset, .iResetWait, .iStat1, .iCal, .iCalWait, .iStat2]
    ∧ (stand .mEval false []).fsm ≠ .idle ∧ (stand .mEval false []).fsm.code.toNat < 12 := by decide

theorem test_witness_DelayStates :
    [Fsm.iPwrWait, .iResetWait, .iCalWait, .mWait].map
      (fun f => ((stand f false []).fsm = f ∧ (stand f false []).pend = false,
        (delayed f).fsm = f ∧ (delayed f).pend = true ∧ (delayed f).delayDone = true))
    = [(True, True), (True, True), (True, True), (True, True)] := by
  simp [stand, delayed]

/-- For the states that send a command and read nothing: the three kinds of event. -/
theorem test_witness_command_states :
    [Fsm.iReset, .iCal, .mTrig].map
      (fun f => ((stand f false []).fsm, (stand f false []).pend, (answered f .ok []).pend,
        (answered f .ok []).busResp, (answered f .err []).busResp, (answered f .timeout [1#8]).busResp))
    = [(.iReset, false, true, some ⟨.ok, []⟩, some ⟨.err, []⟩, some ⟨.timeout, [1#8]⟩),
      (.iCal, false, true, some ⟨.ok, []⟩, some ⟨.err, []⟩, some ⟨.timeout, [1#8]⟩),
      (.mTrig, false, true, some ⟨.ok, []⟩, some ⟨.err, []⟩, some ⟨.timeout, [1#8]⟩)] := rfl

/-- CalibrateState, its second part. -/
theorem test_witness_CalibrateState_entry :
    (∃ t, step (stand .iStat1 true [.busAnswer .ok [0xF7#8]]) = .next t ∧ t.fsm = .iCal)
    ∧ (stand .iStat1 true [.busAnswer .ok [0xF7#8]]).fsm ≠ .iCal := ⟨⟨_, rfl, by decide⟩, by decide⟩

/-- For FirstStatusState and SecondStatusState: both values of CAL. -/
theorem test_witness_status_states :
    [Fsm.iStat1, .iStat2].map
      (fun f => ((stand f false []).fsm, (stand f false []).pend, (answered f .ok [0xF7#8]).pend,
        (answered f .ok [0xF7#8]).busResp, (answered f .ok [0x08#8]).busResp, (answered f .err []).busResp))
    = [(.iStat1, false, true, some ⟨.ok, [0xF7#8]⟩, some ⟨.ok, [0x08#8]⟩, some ⟨.err, []⟩),
      (.iStat2, false, true, some ⟨.ok, [0xF7#8]⟩, some ⟨.ok, [0x08#8]⟩, some ⟨.err, []⟩)]
    ∧ (0xF7#8)[3] = false ∧ (0x08#8)[3] = true := ⟨rfl, by decide, by decide⟩

theorem test_witness_FrameReadState :
    (stand .mRead false []).fsm = .mRead ∧ (stand .mRead false []).pend = false
    ∧ (answered .mRead .ok [1#8, 2#8, 3#8, 4#8, 5#8, 6#8, 7#8]).pend = true
    ∧ (answered .mRead .ok [1#8, 2#8, 3#8, 4#8, 5#8, 6#8, 7#8]).busResp
      = some ⟨.ok, [1#8, 2#8, 3#8, 4#8, 5#8, 6#8, 7#8]⟩
    ∧ (answered .mRead .timeout []).busResp = some ⟨.timeout, []⟩ := by decide

set_option maxRecDepth 4000 in
/-- EvaluationState, its four branches: M-o, M-p, M-l and M-h of L2-7. -/
theorem test_witness_EvaluationState :
    (evaluating frameH).fsm = .mEval
    ∧ (evaluating { frameH with b0 := 0x80#8 }).frame.b0[7] = true
    ∧ ((evaluating { frameH with b0 := 0x77#8 }).frame.b0[7] = false
      ∧ (evaluating { frameH with b0 := 0x77#8 }).frame.b0[3] = false)
    ∧ (frameH.b0[7] = false ∧ frameH.b0[3] = true
      ∧ crc8 (evaluating { frameH with b6 := 0xAE#8 }).frame.bytes ≠ 0x00#8)
    ∧ crc8 (evaluating frameH).frame.bytes = 0x00#8 := by decide

theorem test_witness_StopsByName :
    (stand (.reserved 0b11#2) false []).fsm = .reserved 0b11#2
    ∧ (stand .mEval false []).fsm.code.toNat < 12 ∧ (stand .mEval false []).fsm ≠ .iReset
    ∧ (stand .mEval false []).fsm ≠ .iStat1 ∧ (stand .mEval false []).fsm ≠ .iStat2
    ∧ (stand .mEval false []).fsm ≠ .iCal ∧ (stand .mEval false []).fsm ≠ .mTrig := by decide

theorem test_witness_FailedTransactionAborts :
    [Fsm.iReset, .iStat1, .iCal, .iStat2, .mTrig, .mRead].map
      (fun f => ((stand f true [.busAnswer .timeout []]).busPending,
        (stand f true [.busAnswer .err []]).nextTurn))
    = [(true, .busAnswer .err []), (true, .busAnswer .err []), (true, .busAnswer .err []),
      (true, .busAnswer .err []), (true, .busAnswer .err []), (true, .busAnswer .err [])] := by decide

theorem test_witness_TimeoutOnlyFromTransport :
    (stand .mRead true [.busAnswer .timeout []]).Inv
    ∧ ∃ t, step (stand .mRead true [.busAnswer .timeout []]) = .next t
      ∧ .complete .timeout .transport ∈ (stand .mRead true [.busAnswer .timeout []]).eventsSince t
      ∧ t.result = .timeout :=
  ⟨stand_inv (by decide) (by decide), _, rfl, by decide, by decide⟩

theorem test_witness_ContractBreachRefused :
    (stand .iReset false [.busAnswer .ok []]).fsm.code.toNat < 12
    ∧ (stand .iReset false [.busAnswer .ok []]).busPending = false
    ∧ (stand .iReset false [.busAnswer .ok []]).nextTurn = .busAnswer .ok []
    ∧ (stand .iReset true []).pend = true
    ∧ portRequest defaultParams .iReset = some (.bus (softResetReq defaultParams))
    ∧ [1#8].length ≠ (softResetReq defaultParams).rxLen
    ∧ (stand .iReset true [.busAnswer .ok [1#8]]).nextTurn = .busAnswer .ok [1#8]
    ∧ (stand .iReset true [.busAnswer .reserved []]).nextTurn = .busAnswer .reserved [] := by decide

/-- A state that meets the invariant and completes with the result and cause given. -/
def CompletesWith (r : ResultCode) (c : Cause) (s : State) : Prop :=
  s.Inv ∧ ∃ t, step s = .next t ∧ .complete r c ∈ s.eventsSince t

theorem test_witness_complete_calibrationFailure :
    CompletesWith .err .calibrationFailure (stand .iStat2 true [.busAnswer .ok [0xF7#8]]) :=
  ⟨stand_inv (by decide) (by decide), _, rfl, by decide⟩

theorem test_witness_complete_initOk :
    CompletesWith .ok .none (stand .iStat2 true [.busAnswer .ok [0x08#8]]) :=
  ⟨stand_inv (by decide) (by decide), _, rfl, by decide⟩

theorem test_witness_complete_sensorBusy :
    CompletesWith .err .sensorBusy (evaluating { frameH with b0 := 0x80#8 }) :=
  ⟨evaluating_inv _, _, rfl, by decide⟩

theorem test_witness_complete_notCalibrated :
    CompletesWith .err .notCalibrated (evaluating { frameH with b0 := 0x77#8 }) :=
  ⟨evaluating_inv _, _, rfl, by decide⟩

set_option maxRecDepth 4000 in
theorem test_witness_complete_dataCorruption :
    CompletesWith .err .dataCorruption (evaluating { frameH with b6 := 0xAE#8 }) :=
  ⟨evaluating_inv _, _, rfl, by decide⟩

set_option maxRecDepth 4000 in
theorem test_witness_complete_measureOk : CompletesWith .ok .none (evaluating frameH) :=
  ⟨evaluating_inv _, _, rfl, by decide⟩

theorem test_witness_complete_transport :
    CompletesWith .err .transport (stand .mTrig true [.busAnswer .err []]) :=
  ⟨stand_inv (by decide) (by decide), _, rfl, by decide⟩

theorem test_witness_complete_illegalOp : CompletesWith .err .illegalOp (requesting [0b00#2]) :=
  ⟨requesting_inv _, _, rfl, by decide⟩

theorem test_witness_ResultsChangeOnlyAtComplete :
    ∃ t, step (requesting [0b11#2]) = .next t ∧ (requesting [0b11#2]).nextTurn ≠ .reset
      ∧ t.errCause ≠ (requesting [0b11#2]).errCause := ⟨_, rfl, by decide, by decide⟩

set_option maxRecDepth 4000 in
theorem test_witness_ReadingWrittenOnlyByOkMeasure :
    ∃ t, step (evaluating frameH) = .next t ∧ (evaluating frameH).nextTurn ≠ .reset
      ∧ t.hum ≠ (evaluating frameH).hum := ⟨_, rfl, by decide, by decide⟩

/-- For InitFrame, MeasureFrame and IllegalFrame: each instruction answers a next state. -/
theorem test_witness_frames :
    (∃ t, exec .init (stand .iCalWait false []) = .next t ∧ t.fsm ≠ .idle)
    ∧ (∃ t, exec .devSoftReset (answered .iReset .err []) = .next t ∧ t.fsm = .idle)
    ∧ (∃ t, exec .devReadStatus (answered .iStat1 .ok [0x18#8]) = .next t ∧ t.fsm ≠ .idle)
    ∧ (∃ t, exec .devCalibrate (answered .iCal .ok []) = .next t ∧ t.fsm ≠ .idle)
    ∧ (∃ t, exec .measure (stand .mRead false []) = .next t ∧ t.fsm ≠ .idle)
    ∧ (∃ t, exec .devTrigger (answered .mTrig .ok []) = .next t ∧ t.fsm ≠ .idle)
    ∧ (∃ t, exec .illegal00 (requesting [0b00#2]) = .next t)
    ∧ (∃ t, exec .illegal11 (stand .mWait true []) = .next t) :=
  ⟨⟨_, rfl, by decide⟩, ⟨_, rfl, by decide⟩, ⟨_, rfl, by decide⟩, ⟨_, rfl, by decide⟩, ⟨_, rfl, by decide⟩,
    ⟨_, rfl, by decide⟩, ⟨_, rfl⟩, ⟨_, rfl⟩⟩

/-- For ParametersNeverChange and EventsOnlyAppend: steps of every agent. -/
theorem test_witness_steps :
    (∃ t, step (stand .mWait true [.reset]) = .next t)
    ∧ (∃ t, step (stand .mWait true [.delayDone]) = .next t)
    ∧ (∃ t, step (stand .mRead true [.hostRead .busy]) = .next t)
    ∧ (∃ t, step { stand .idle false [.lateAnswer] with abandoned := 1 } = .next t) :=
  ⟨⟨_, rfl⟩, ⟨_, rfl⟩, ⟨_, rfl⟩, ⟨_, rfl⟩⟩

/-- For ResetEvent and ResetAbandonsTheOperation, H-d of L2-8. -/
theorem test_witness_reset :
    (stand .mWait true [.reset]).nextTurn = .reset
    ∧ { stand .idle false [.lateAnswer] with abandoned := 1 }.fsm.code.toNat < 12
    ∧ { stand .idle false [.lateAnswer] with abandoned := 1 }.nextTurn = .lateAnswer
    ∧ { stand .idle false [.lateAnswer] with abandoned := 1 }.abandoned ≠ 0 := by decide

theorem test_witness_HostReadsAndWrites :
    (stand .iReset true [.hostRead .result]).fsm.code.toNat < 12
    ∧ (stand .iReset true [.hostRead .result]).nextTurn = .hostRead .result
    ∧ readRegister .result (stand .iReset true [.hostRead .result]) = .ok (.result 0b01#2)
    ∧ (stand .iReset true [.request 0b10#2]).nextTurn = .request 0b10#2
    ∧ State.reset.result ≠ .reserved ∧ State.reset.errCause ≠ .reserved
    ∧ { State.reset with hasReading := true }.hasReading = true
    ∧ { State.reset with temp := convT .binary64 0x80000#20 }.temp = .binary64 (convT64 0x80000#20)
    ∧ { State.reset with hum := convH .binary32 0x80000#20 }.hum = .binary32 (convH32 0x80000#20) :=
  ⟨by decide, rfl, rfl, rfl, by decide, by decide, rfl, rfl, rfl⟩

set_option maxRecDepth 4000 in
/-- HostReadsAndWrites, its third part: after an Ok MEASURE a read of HUM gives the pattern of M-h. -/
theorem test_witness_HostReadsAndWrites_reading :
    ∃ t, step (evaluating frameH) = .next t ∧ t.hasReading = true
      ∧ t.hum = .binary64 0x4049000000000000#64 := ⟨_, rfl, by decide, by decide⟩

theorem test_witness_OnlyFaultIsAReadingWithoutValue :
    (stand .idle false [.hostRead .hum]).Inv
    ∧ (stand .idle false [.hostRead .hum]).fsm.code.toNat < 12
    ∧ (stand .idle false [.hostRead .hum]).nextTurn = .hostRead .hum
    ∧ (stand .idle false [.hostRead .temp]).nextTurn = .hostRead .temp
    ∧ (stand .idle false [.hostRead .hum]).hasReading = false
    ∧ step (stand .idle false [.hostRead .hum]) = .fault .noReading :=
  ⟨stand_inv (by decide) (by decide), by decide, rfl, rfl, rfl, rfl⟩

theorem test_witness_OnlyBreachesAreRefused :
    (stand .mRead true [.busAnswer .ok [1#8]]).Inv
    ∧ step (stand .mRead true [.busAnswer .ok [1#8]]) = .refused .responseLength
    ∧ step (stand .mRead true [.busAnswer .reserved []]) = .refused .responseCode
    ∧ step (stand .mRead true [.delayDone]) = .refused .unsolicitedAnswer
    ∧ step (stand .mRead true [.lateAnswer]) = .refused .unsolicitedAnswer
    ∧ step (stand .mWait true [.busAnswer .ok []]) = .refused .unsolicitedAnswer :=
  ⟨stand_inv (by decide) (by decide), rfl, rfl, rfl, rfl, rfl⟩

/-- For OnlyTheseTransactions and OneRequestOutstanding: each bus state issues a request. -/
theorem test_witness_transactions :
    [Fsm.iReset, .iStat1, .iCal, .iStat2, .mTrig, .mRead].map
      (fun f => after (fun t => ((stand f false []).eventsSince t).length) (stand f false []))
    = [some 1, some 1, some 1, some 1, some 1, some 1] := by decide

theorem test_witness_OneRequestOutstanding :
    (stand .iReset false []).Inv ∧ (stand .iReset false []).nextTurn ≠ .reset
    ∧ (∃ t, step (stand .iReset false []) = .next t
      ∧ .request (.bus (softResetReq defaultParams)) ∈ (stand .iReset false []).eventsSince t)
    ∧ (∃ t, step (stand .iReset true [.busAnswer .ok []]) = .next t
      ∧ .busAnswer .ok [] ∈ (stand .iReset true [.busAnswer .ok []]).eventsSince t)
    ∧ (∃ t, step (stand .mWait true [.delayDone]) = .next t
      ∧ .delayDone ∈ (stand .mWait true [.delayDone]).eventsSince t) :=
  ⟨stand_inv (by decide) (by decide), by decide, ⟨_, rfl, by decide⟩, ⟨_, rfl, by decide⟩,
    ⟨_, rfl, by decide⟩⟩

theorem test_witness_WaitsWithoutLimit :
    (stand .mWait true []).Waiting ∧ (stand .mWait true []).nextTurn = .sequencer :=
  ⟨⟨rfl, rfl, rfl, rfl⟩, rfl⟩

theorem test_witness_StatusCheckFunction :
    (0x80#8)[7] = true ∧ ((0x77#8)[7] = false ∧ (0x77#8)[3] = false)
    ∧ ((0x08#8)[7] = false ∧ (0x08#8)[3] = true) := by decide

theorem test_witness_OnlyTwoStatusBitsMatter :
    ((0x08#8)[7] = (0x7F#8)[7] ∧ (0x08#8)[3] = (0x7F#8)[3])
    ∧ (stand .iStat1 true []).pend = true ∧ (0x08#8)[3] = (0xFF#8)[3]
    ∧ (∃ t, exec .devReadStatus { stand .iStat1 true [] with busResp := some ⟨.ok, [0x08#8]⟩ } = .next t)
    ∧ (∃ t, exec .devReadStatus { stand .iStat2 true [] with busResp := some ⟨.ok, [0xFF#8]⟩ } = .next t) :=
  ⟨by decide, by decide, by decide, ⟨_, rfl⟩, ⟨_, rfl⟩⟩

theorem test_witness_CrcByteStep : ∃ table : Byte → Byte, ∀ x, table x = crcG x := ⟨crcG, fun _ => rfl⟩

set_option maxRecDepth 4000 in
/-- CrcDetectsUpToThreeBitErrors, at one and at three bits. -/
theorem test_witness_CrcDetectsUpToThreeBitErrors :
    [(0 : Fin 56)].Nodup ∧ [(0 : Fin 56), 27, 55].Nodup ∧ frameCrcOk frameH = true
    ∧ frameH.bytes.length = 7 ∧ (errorPattern [55]).length = 7 := by decide

/-- PackRoundTrip: a status byte with BUSY = 0 and CAL = 1, and the state that evaluates the packed frame. -/
theorem test_witness_PackRoundTrip :
    (0x08#8)[7] = false ∧ (0x08#8)[3] = true
    ∧ (evaluating (pack 0x08#8 0#20 0xFFFFF#20)).fsm = .mEval
    ∧ (evaluating (pack 0x08#8 0#20 0xFFFFF#20)).frame = pack 0x08#8 0#20 0xFFFFF#20
    ∧ (evaluating (pack 0x08#8 0#20 0xFFFFF#20)).params.floatFormat = .binary64 :=
  ⟨by decide, by decide, rfl, rfl, rfl⟩

/-- Binary64SpecialValues and Binary32Rounding: the boundary values R214 and R219 name. -/
theorem test_witness_conversion :
    25 * (0xA3D70#20).toNat < 2 ^ 24 ∧ 2 ^ 24 ≤ 25 * (0xA3D71#20).toNat ∧ (0xA3D71#20).toNat % 2 = 1
    ∧ (0xFFFFE#20).toNat % 2 = 0 := by decide

/-- MeasureOutcome. -/
theorem test_witness_MeasureOutcome :
    { requesting [0b10#2] with schedule := measureTurns frameH.bytes }.fsm = .idle
    ∧ { requesting [0b10#2] with schedule := measureTurns frameH.bytes }.pend = false
    ∧ { requesting [0b10#2] with schedule := measureTurns frameH.bytes }.requests = 0b10#2 :: []
    ∧ { requesting [0b10#2] with schedule := measureTurns frameH.bytes }.schedule
      = measureTurns frameH.bytes ++ [] := by decide

/-- InitOutcome, with both lengths of the sequence. -/
theorem test_witness_InitOutcome :
    { requesting [0b01#2] with schedule := initTurns 0x18#8 0x10#8 }.fsm = .idle
    ∧ { requesting [0b01#2] with schedule := initTurns 0x18#8 0x10#8 }.pend = false
    ∧ { requesting [0b01#2] with schedule := initTurns 0x18#8 0x10#8 }.requests = 0b01#2 :: []
    ∧ { requesting [0b01#2] with schedule := initTurns 0x18#8 0x10#8 }.schedule
      = initTurns 0x18#8 0x10#8 ++ []
    ∧ (initTurns 0x18#8 0x10#8).length = 13 ∧ (initTurns 0x10#8 0x18#8).length = 15 := by decide

theorem test_witness_InvKeptByEveryStep :
    (stand .iStat1 true [.busAnswer .ok [0x10#8]]).Inv
    ∧ ∃ t, step (stand .iStat1 true [.busAnswer .ok [0x10#8]]) = .next t ∧ t.fsm = .iCal :=
  ⟨stand_inv (by decide) (by decide), _, rfl, by decide⟩

/-- A state in I_STAT2 whose trace is that of an INIT, waiting for the second status. -/
def beforeSecondStatus : State :=
  { stand .iStat2 true [.busAnswer .ok [0x18#8]] with
    trace := [.accept 0b01#2] ++ initHead defaultParams ++ initMiddle defaultParams 0x10#8
      ++ [.request (.bus (readStatusReq defaultParams))] }

/-- For TraceKeepsToTheSequence and CompletedOperationsRanTheirSequence. -/
theorem test_witness_trace :
    beforeSecondStatus.Inv ∧ beforeSecondStatus.TraceFits
    ∧ ∃ t, step beforeSecondStatus = .next t ∧ .complete .ok .none ∈ beforeSecondStatus.eventsSince t :=
  ⟨inv_of_reset_registers (by decide) (by decide) rfl rfl rfl rfl rfl rfl,
    ⟨initHead defaultParams ++ initMiddle defaultParams 0x10#8, ⟨0x10#8, rfl⟩, fun _ => by decide⟩,
    _, rfl, by decide⟩

/-- NoHistory: two states with different histories. -/
theorem test_witness_NoHistory :
    (evaluating frameH).SameControl
      { evaluating frameH with
        temp := .binary64 1#64, hum := .binary64 2#64, st := 0xFF#8, result := .timeout,
        errCause := .transport, rawT := 5#20 }
    ∧ ∀ reg, (evaluating frameH).nextTurn ≠ .hostRead reg :=
  ⟨⟨rfl, rfl, rfl, rfl, rfl, rfl, rfl, rfl, fun _ => rfl⟩, nofun⟩

theorem test_witness_OperationsMakeProgress :
    (stand .iPwrWait false []).Inv ∧ (stand .iPwrWait false []).fsm ≠ .idle
    ∧ (stand .iPwrWait false []).nextTurn ≠ .reset
    ∧ ∃ t, step (stand .iPwrWait false []) = .next t ∧ t.eventsLeft = 13 :=
  ⟨stand_inv (by decide) (by decide), by decide, by decide, _, rfl, by decide⟩

theorem test_witness_OperationsNeverHangByThemselves :
    (stand .mRead true [.busAnswer .ok [1#8, 2#8, 3#8, 4#8, 5#8, 6#8, 7#8]]).Inv
    ∧ (stand .mRead true []).busPending = true
    ∧ portRequest defaultParams .mRead = some (.bus (readFrameReq defaultParams))
    ∧ [1#8, 2#8, 3#8, 4#8, 5#8, 6#8, 7#8].length = (readFrameReq defaultParams).rxLen
    ∧ (stand .mRead true [.busAnswer .timeout []]).nextTurn = .busAnswer .timeout []
    ∧ (stand .mWait true [.delayDone]).delayPending = true :=
  ⟨stand_inv (by decide) (by decide), by decide, by decide, by decide, by decide, by decide⟩

end Sys2Proof.Tests
end

section
/-! SUPPORT. The parameters: no event of the block and no turn of an agent writes them (10_state.md R7). -/

namespace Sys2Proof.Machine

@[simp] theorem onStat2_params (rx : List Byte) (s : State) : (onStat2 rx s).params = s.params := by
  obtain ⟨_, h⟩ | ⟨_, h⟩ := onStat2_cases rx s <;> rw [h, complete_params]

@[simp] theorem evaluate_params (s : State) : (evaluate s).params = s.params := by
  obtain ⟨_, h⟩ | ⟨_, _, h⟩ | ⟨_, _, h⟩ := evaluate_cases s <;> rw [h]
  · exact complete_params ..
  · exact complete_params ..
  · exact complete_params ..

/-- An event of the block changes no parameter. -/
theorem SeqEvent.params {s t : State} (h : SeqEvent s t) : t.params = s.params := by
  cases h with
  | acceptInto op first => exact acceptInto_params ..
  | acceptIllegal op => exact acceptIllegal_params ..
  | issue r => exact issue_params ..
  | delayDone nextFsm => exact takeDelayDone_params s
  | aborted r code rx _ _ _ hc => rw [abort_of_failed hc, complete_params, takeBusAnswer_params]
  | written rx nextFsm => exact takeBusAnswer_params .ok rx s
  | stat1 rx => exact takeBusAnswer_params .ok rx s
  | stat2 rx => rw [onStat2_params, takeBusAnswer_params]
  | frameRead rx => exact takeBusAnswer_params .ok rx s
  | evaluated => exact evaluate_params s

/-- Settles O30: the block's events and every other agent's turn, reset included, keep the parameters. -/
theorem parametersNeverChange : Obligations.ParametersNeverChange := by
  intro s t h
  obtain ⟨u, hd, he⟩ | ⟨_, _, rfl⟩ | ⟨op, _, rfl⟩ | ⟨reg, v, _, _, rfl⟩ | ⟨_, _, rfl⟩ | ⟨_, rfl⟩ :=
    step_cases h
  · exact he.params.trans hd.params
  · exact popTurn_params s
  · exact presentRequest_params op s.popTurn
  · exact emit_params s.popTurn (.hostRead reg v)
  · exact popTurn_params s
  · exact resetEvent_params s.popTurn

end Sys2Proof.Machine
end

section
/-! SUPPORT. What an event of the block does to each part of the state, said once: what it keeps, how it
writes the result registers, and what it leaves at the ports (10_state.md R22, R30, R35, R232). -/

namespace Sys2Proof.Machine

/-! ### What an event keeps -/

/-- The registers and ports that an event of the block keeps, with the state that may write each. -/
structure SeqFrame (s t : State) : Prop where
  st : s.fsm ≠ .iStat1 → s.fsm ≠ .iStat2 → t.st = s.st
  frame : s.fsm ≠ .mRead → t.frame = s.frame
  raw : s.fsm ≠ .mEval → t.rawT = s.rawT ∧ t.rawH = s.rawH
  requests : s.fsm ≠ .idle → t.requests = s.requests
  schedule : t.schedule = s.schedule
  abandoned : t.abandoned = s.abandoned

theorem SeqFrame.refl (s : State) : SeqFrame s s :=
  ⟨fun _ _ => rfl, fun _ => rfl, fun _ => ⟨rfl, rfl⟩, fun _ => rfl, rfl, rfl⟩

/-- The evaluation writes no register but the raw fields and the result registers (R144). -/
theorem evaluate_keeps (s : State) :
    (evaluate s).st = s.st ∧ (evaluate s).frame = s.frame ∧ (evaluate s).requests = s.requests
    ∧ (evaluate s).schedule = s.schedule ∧ (evaluate s).abandoned = s.abandoned
    ∧ (evaluate s).busResp = s.busResp ∧ (evaluate s).delayDone = s.delayDone := by
  obtain ⟨_, h⟩ | ⟨_, _, h⟩ | ⟨_, _, h⟩ := evaluate_cases s <;> rw [h] <;>
    exact ⟨rfl, rfl, rfl, rfl, rfl, rfl, rfl⟩

/-- The second status read writes no register but `st` and the result registers (R117). -/
theorem onStat2_keeps (rx : List Byte) (s : State) :
    (onStat2 rx s).frame = s.frame ∧ (onStat2 rx s).rawT = s.rawT ∧ (onStat2 rx s).rawH = s.rawH
    ∧ (onStat2 rx s).requests = s.requests ∧ (onStat2 rx s).schedule = s.schedule
    ∧ (onStat2 rx s).abandoned = s.abandoned ∧ (onStat2 rx s).busResp = s.busResp
    ∧ (onStat2 rx s).delayDone = s.delayDone := by
  obtain ⟨_, h⟩ | ⟨_, h⟩ := onStat2_cases rx s <;> rw [h] <;>
    exact ⟨rfl, rfl, rfl, rfl, rfl, rfl, rfl, rfl⟩

theorem SeqEvent.seqFrame {s t : State} (h : SeqEvent s t) : SeqFrame s t := by
  cases h with
  | acceptInto op first hi => exact { SeqFrame.refl s with requests := fun hn => absurd hi hn }
  | acceptIllegal op hi => exact { SeqFrame.refl s with requests := fun hn => absurd hi hn }
  | issue r => exact { SeqFrame.refl s with }
  | delayDone nextFsm => exact { SeqFrame.refl s with }
  | aborted r code rx _ _ _ hc =>
    rw [abort_of_failed hc]
    exact { SeqFrame.refl s with }
  | written rx nextFsm => exact { SeqFrame.refl s with }
  | stat1 rx hf => exact { SeqFrame.refl s with st := fun hn => absurd hf hn }
  | stat2 rx hf =>
    obtain ⟨hframe, hrawT, hrawH, hrequests, hschedule, habandoned, -⟩ :=
      onStat2_keeps rx (takeBusAnswer .ok rx s)
    exact ⟨fun _ hn => absurd hf hn, fun _ => hframe, fun _ => ⟨hrawT, hrawH⟩, fun _ => hrequests, hschedule,
      habandoned⟩
  | frameRead rx hf => exact { SeqFrame.refl s with frame := fun hn => absurd hf hn }
  | evaluated hf =>
    obtain ⟨hst, hframe, hrequests, hschedule, habandoned, -⟩ := evaluate_keeps s
    exact ⟨fun _ _ => hst, fun _ => hframe, fun hn => absurd hf hn, fun _ => hrequests, hschedule, habandoned⟩

/-! ### How an event writes the result registers -/

/-- The pairs of RESULT and ERR_CAUSE that a completion writes (R36, R90, R91): no reserved code, and the
cause NONE exactly with Ok. -/
structure LegalOutcome (r : ResultCode) (c : Cause) : Prop where
  result : r ≠ .reserved
  cause : c ≠ .reserved
  okIffNone : r = .ok ↔ c = .none

/-- An event that ends its operation (R232): what it leaves in the registers, and its last port event. TEMP,
HUM and `hasReading` are written only in M_EVAL, all three together (R147). -/
structure Completed (s t : State) : Prop where
  fsm : t.fsm = .idle
  pend : t.pend = false
  done : t.done = true
  outcome : LegalOutcome t.result t.errCause
  reading : (t.temp = s.temp ∧ t.hum = s.hum ∧ t.hasReading = s.hasReading)
    ∨ (s.fsm = .mEval ∧ t.hasReading = true ∧ t.temp = convT s.params.floatFormat (unpackT s.frame)
        ∧ t.hum = convH s.params.floatFormat (unpackH s.frame))
  shown : ∃ before, t.trace = s.trace ++ before ++ [.complete t.result t.errCause]

/-- An event after which an operation runs on: the result registers are kept, and DONE too but at Accept, which
clears it (R22, R34). -/
structure RunsOn (s t : State) : Prop where
  fsm : t.fsm ≠ .idle
  result : t.result = s.result
  errCause : t.errCause = s.errCause
  temp : t.temp = s.temp
  hum : t.hum = s.hum
  hasReading : t.hasReading = s.hasReading
  done : t.done = if s.fsm = .idle then false else s.done

/-- A completion without a reading, whatever the event has done before it but to the result registers. -/
theorem Completed.of_complete {s u : State} {r : ResultCode} {c : Cause} (ho : LegalOutcome r c)
    (ht : u.temp = s.temp) (hh : u.hum = s.hum) (hr : u.hasReading = s.hasReading)
    (hs : ∃ before, u.trace = s.trace ++ before) : Completed s (complete r c none u) where
  fsm := rfl
  pend := rfl
  done := rfl
  outcome := ho
  reading := .inl ⟨ht, hh, hr⟩
  shown := hs.imp fun before h => by rw [complete_trace, h]; rfl

/-- The evaluation ends its operation, with the reading or with the cause of the check that failed. -/
theorem evaluate_completed {s : State} (hf : s.fsm = .mEval) : Completed s (evaluate s) := by
  obtain ⟨hc, h⟩ | ⟨_, _, h⟩ | ⟨_, _, h⟩ := evaluate_cases s <;> rw [h]
  · exact .of_complete ⟨nofun, statusCheck_ne_reserved _, by simp [hc]⟩ rfl rfl rfl
      ⟨[], (List.append_nil _).symm⟩
  · exact .of_complete ⟨nofun, nofun, by simp⟩ rfl rfl rfl ⟨[], (List.append_nil _).symm⟩
  · exact ⟨rfl, rfl, rfl, ⟨nofun, nofun, Iff.intro (fun _ => rfl) fun _ => rfl⟩, .inr ⟨hf, rfl, rfl, rfl⟩,
      [], by simp [completeReading]⟩

/-- The second status read ends its operation (R117). -/
theorem onStat2_completed (rx : List Byte) (s : State) :
    Completed s (onStat2 rx (takeBusAnswer .ok rx s)) := by
  obtain ⟨_, h⟩ | ⟨_, h⟩ := onStat2_cases rx (takeBusAnswer .ok rx s) <;> rw [h]
  · exact .of_complete ⟨nofun, nofun, by simp⟩ rfl rfl rfl ⟨[.busAnswer .ok rx], rfl⟩
  · exact .of_complete ⟨nofun, nofun, by simp⟩ rfl rfl rfl ⟨[.busAnswer .ok rx], rfl⟩

theorem ne_idle_of_request {p : Params} {f : Fsm} {r : PortRequest} (h : portRequest p f = some r) :
    f ≠ .idle := by
  rintro rfl
  cases h

/-- A delay state issues a delay request. -/
theorem DelaySucc.request {f g : Fsm} (h : DelaySucc f g) (p : Params) :
    ∃ ms, portRequest p f = some (.delay ms) := by
  cases h <;> exact ⟨_, rfl⟩

/-- A state that sends a command issues a bus request. -/
theorem WriteSucc.request {f g : Fsm} (h : WriteSucc f g) (p : Params) :
    ∃ r, portRequest p f = some (.bus r) := by
  cases h <;> exact ⟨_, rfl⟩

theorem DelaySucc.succ_ne_idle {f g : Fsm} (h : DelaySucc f g) : g ≠ .idle := by cases h <;> decide

theorem WriteSucc.succ_ne_idle {f g : Fsm} (h : WriteSucc f g) : g ≠ .idle := by cases h <;> decide

theorem onStat1_ne_idle (rx : List Byte) (s : State) : (onStat1 rx s).fsm ≠ .idle := by
  unfold onStat1
  cases calFlag (statusOf rx) <;> simp

/-- An event of the block ends the operation, or leaves it running with the result registers kept. -/
theorem SeqEvent.completed_or_runsOn {s t : State} (h : SeqEvent s t) : Completed s t ∨ RunsOn s t := by
  cases h with
  | acceptInto op first hi ho =>
    have hf : first ≠ .idle := by obtain ⟨_, rfl⟩ | ⟨_, rfl⟩ := ho <;> decide
    exact .inr ⟨hf, rfl, rfl, rfl, rfl, rfl, (if_pos hi).symm⟩
  | acceptIllegal op =>
    exact .inl (.of_complete ⟨nofun, nofun, by simp⟩ rfl rfl rfl ⟨[.accept op], rfl⟩)
  | issue r _ hr =>
    have hf := ne_idle_of_request hr
    exact .inr ⟨hf, rfl, rfl, rfl, rfl, rfl, (if_neg hf).symm⟩
  | delayDone nextFsm _ _ hs =>
    obtain ⟨_, hq⟩ := hs.request s.params
    exact .inr ⟨hs.succ_ne_idle, rfl, rfl, rfl, rfl, rfl, (if_neg (ne_idle_of_request hq)).symm⟩
  | aborted r code rx _ _ _ hc =>
    rw [abort_of_failed hc]
    have ho : LegalOutcome code .transport := by obtain rfl | rfl := hc <;> exact ⟨nofun, nofun, by simp⟩
    exact .inl (.of_complete ho rfl rfl rfl ⟨[.busAnswer code rx], rfl⟩)
  | written rx nextFsm _ _ _ hs =>
    obtain ⟨_, hq⟩ := hs.request s.params
    exact .inr ⟨hs.succ_ne_idle, rfl, rfl, rfl, rfl, rfl, (if_neg (ne_idle_of_request hq)).symm⟩
  | stat1 rx hf =>
    exact .inr ⟨onStat1_ne_idle rx _, rfl, rfl, rfl, rfl, rfl, by simp [hf, onStat1]⟩
  | stat2 rx => exact .inl (onStat2_completed rx s)
  | frameRead rx hf => exact .inr ⟨nofun, rfl, rfl, rfl, rfl, rfl, by simp [hf]⟩
  | evaluated hf => exact .inl (evaluate_completed hf)

end Sys2Proof.Machine
end

section
/-! SUPPORT. The invariant of the machine: it holds after reset, and every step of every agent keeps it
(10_state.md R29, R30, R34, R36, R37). -/

namespace Sys2Proof.Machine

/-! ### The ports -/

theorem not_pending_of_no_request {s : State} (h : portRequest s.params s.fsm = none) :
    s.busPending = false ∧ s.delayPending = false := by
  simp [State.busPending, State.delayPending, h]

theorem not_pending_of_idle {s : State} (h : s.fsm = .idle) :
    s.busPending = false ∧ s.delayPending = false :=
  not_pending_of_no_request (by rw [h]; rfl)

theorem delayPending_of_bus {s : State} {r : BusReq} (h : portRequest s.params s.fsm = some (.bus r)) :
    s.delayPending = false := by
  simp [State.delayPending, h]

theorem busPending_of_delay {s : State} {ms : Millis} (h : portRequest s.params s.fsm = some (.delay ms)) :
    s.busPending = false := by
  simp [State.busPending, h]

/-- An event leaves no answer of its outstanding request at a port (R30); another answer would stay. -/
structure TakesAnswer (s t : State) : Prop where
  bus : t.busResp = none ∨ (t.busResp = s.busResp ∧ s.busPending = false)
  delay : t.delayDone = false ∨ (t.delayDone = s.delayDone ∧ s.delayPending = false)

theorem SeqEvent.takesAnswer {s t : State} (h : SeqEvent s t) : TakesAnswer s t := by
  have ofBus {t : State} {r : BusReq} (hq : portRequest s.params s.fsm = some (.bus r))
      (hb : t.busResp = none) (hd : t.delayDone = s.delayDone) : TakesAnswer s t :=
    ⟨.inl hb, .inr ⟨hd, delayPending_of_bus hq⟩⟩
  have noPort {t : State} (hn : s.busPending = false ∧ s.delayPending = false)
      (hb : t.busResp = s.busResp) (hd : t.delayDone = s.delayDone) : TakesAnswer s t :=
    ⟨.inr ⟨hb, hn.1⟩, .inr ⟨hd, hn.2⟩⟩
  cases h with
  | acceptInto op first hi => exact noPort (not_pending_of_idle hi) rfl rfl
  | acceptIllegal op hi => exact noPort (not_pending_of_idle hi) rfl rfl
  | issue r hp => exact noPort (by simp [State.busPending, State.delayPending, hp]) rfl rfl
  | delayDone nextFsm hp hd hs =>
    obtain ⟨_, hq⟩ := hs.request s.params
    exact ⟨.inr ⟨rfl, busPending_of_delay hq⟩, .inl rfl⟩
  | aborted r code rx _ hq _ hc =>
    rw [abort_of_failed hc]
    exact ofBus hq rfl rfl
  | written rx nextFsm _ _ _ hs =>
    obtain ⟨_, hq⟩ := hs.request s.params
    exact ofBus hq rfl rfl
  | stat1 rx hf => exact ofBus (by rw [hf]; rfl) rfl rfl
  | stat2 rx hf =>
    obtain ⟨-, -, -, -, -, -, hb, hd⟩ := onStat2_keeps rx (takeBusAnswer .ok rx s)
    exact ofBus (by rw [hf]; rfl) hb hd
  | frameRead rx hf => exact ofBus (by rw [hf]; rfl) rfl rfl
  | evaluated hf =>
    obtain ⟨-, -, -, -, -, hb, hd⟩ := evaluate_keeps s
    exact noPort (not_pending_of_no_request (by rw [hf]; rfl)) hb hd

/-- From a state with clear ports, the ports are clear again after the event that an answer was delivered to. -/
theorem Delivered.portsClear {s u t : State} (hd : Delivered s u) (he : SeqEvent u t)
    (hc : s.busResp = none ∧ s.delayDone = false) : t.busResp = none ∧ t.delayDone = false := by
  obtain ⟨hb, hy⟩ := he.takesAnswer
  have noBus : u.busPending = false → u.busResp = none := by
    cases hd with
    | own => exact fun _ => hc.1
    | bus code rx _ hp => exact fun hn => by simp_all [State.busPending]
    | delay => exact fun _ => hc.1
  have noDelay : u.delayPending = false → u.delayDone = false := by
    cases hd with
    | own => exact fun _ => hc.2
    | bus => exact fun _ => hc.2
    | delay _ hp => exact fun hn => by simp_all [State.delayPending]
  exact ⟨hb.elim id fun ⟨h, hn⟩ => h.trans (noBus hn), hy.elim id fun ⟨h, hn⟩ => h.trans (noDelay hn)⟩

/-! ### The state register and `pend` -/

theorem DelaySucc.succ_legal {f g : Fsm} (h : DelaySucc f g) : g.code.toNat < 12 := by cases h <;> decide

theorem WriteSucc.succ_legal {f g : Fsm} (h : WriteSucc f g) : g.code.toNat < 12 := by cases h <;> decide

/-- After an event of the block `fsm` holds a code that has a meaning (R29). -/
theorem SeqEvent.fsm_legal {s t : State} (h : SeqEvent s t) : t.fsm.code.toNat < 12 := by
  have ofIdle {t : State} (h : t.fsm = .idle) : t.fsm.code.toNat < 12 := by rw [h]; decide
  cases h with
  | acceptInto op first _ ho =>
    obtain ⟨_, rfl⟩ | ⟨_, rfl⟩ := ho <;> simp [Fsm.code]
  | acceptIllegal op => exact ofIdle rfl
  | issue r _ hr => exact legal_of_request hr
  | delayDone nextFsm _ _ hs => exact hs.succ_legal
  | aborted r code rx _ _ _ hc => rw [abort_of_failed hc]; exact ofIdle rfl
  | written rx nextFsm _ _ _ hs => exact hs.succ_legal
  | stat1 rx => unfold onStat1; cases calFlag (statusOf rx) <;> simp [Fsm.code]
  | stat2 rx => exact ofIdle (onStat2_completed rx s).fsm
  | frameRead rx => simp [Fsm.code]
  | evaluated hf => exact ofIdle (evaluate_completed hf).fsm

/-- After an event of the block `pend` is 1 only by the issue event, or where it was before an Accept. -/
theorem SeqEvent.pend_request {s t : State} (h : SeqEvent s t)
    (hs : s.pend = true → (portRequest s.params s.fsm).isSome = true) (ht : t.pend = true) :
    (portRequest t.params t.fsm).isSome = true := by
  cases h with
  | acceptInto op first hi =>
    have := hs ht
    simp [hi, portRequest] at this
  | acceptIllegal op => cases ht
  | issue r _ hr => exact Option.isSome_of_eq_some hr
  | delayDone nextFsm => cases ht
  | aborted r code rx _ _ _ hc => rw [abort_of_failed hc] at ht; cases ht
  | written rx => cases ht
  | stat1 rx => cases ht
  | stat2 rx => rw [(onStat2_completed rx s).pend] at ht; cases ht
  | frameRead rx => cases ht
  | evaluated hf => rw [(evaluate_completed hf).pend] at ht; cases ht

/-! ### The invariant -/

/-- `s` with no answer at its ports. -/
def State.clearPorts (s : State) : State := { s with busResp := none, delayDone := false }

/-- The invariant is about the state between events: an answer just delivered does not touch the rest of it. -/
theorem Delivered.inv_clearPorts {s u : State} (hd : Delivered s u) (hi : s.Inv) : u.clearPorts.Inv := by
  cases hd <;> exact { hi with portsClear := ⟨rfl, rfl⟩ }

theorem Completed.inv {s t : State} (h : Completed s t) (hp : t.params = s.params)
    (hr : readingFits s.params.floatFormat s.temp s.hum = true)
    (hc : t.busResp = none ∧ t.delayDone = false) : t.Inv where
  fsmLegal := by rw [h.fsm]; decide
  pendOnRequest := by simp [h.pend]
  doneIdle _ := h.fsm
  resultLegal := h.outcome.result
  causeLegal := h.outcome.cause
  okHasNoCause := h.outcome.okIffNone.1
  noCauseIsOk _ := h.outcome.okIffNone.2
  reading := by
    obtain ⟨ht, hh, -⟩ | ⟨-, -, ht, hh⟩ := h.reading <;> rw [hp, ht, hh]
    · exact hr
    · exact convT_convH_fit ..
  portsClear := hc

/-- An event keeps the invariant, if it leaves its ports clear. -/
theorem SeqEvent.inv {s t : State} (h : SeqEvent s t) (hi : s.clearPorts.Inv)
    (hc : t.busResp = none ∧ t.delayDone = false) : t.Inv := by
  obtain hd | hd := h.completed_or_runsOn
  · exact hd.inv h.params hi.reading hc
  · have running : t.done = false := by
      rw [hd.done]
      split
      · rfl
      · next hn => exact Bool.eq_false_iff.2 fun h => hn (hi.doneIdle h)
    exact {
      fsmLegal := h.fsm_legal
      pendOnRequest := h.pend_request hi.pendOnRequest
      doneIdle := by simp [running]
      resultLegal := hd.result ▸ hi.resultLegal
      causeLegal := hd.errCause ▸ hi.causeLegal
      okHasNoCause := by rw [hd.result, hd.errCause]; exact hi.okHasNoCause
      noCauseIsOk := by simp [running]
      reading := by rw [h.params, hd.temp, hd.hum]; exact hi.reading
      portsClear := hc }

/-- A reset establishes the invariant, whatever the state was (R40, R260). -/
theorem resetEvent_inv (s : State) : (resetEvent s).Inv where
  fsmLegal := by simp [Fsm.code]
  pendOnRequest := nofun
  doneIdle := nofun
  resultLegal := nofun
  causeLegal := nofun
  okHasNoCause := nofun
  noCauseIsOk := nofun
  reading := by cases h : s.params.floatFormat <;> simp [h, FloatReg.zero, readingFits]
  portsClear := ⟨rfl, rfl⟩

/-- Settles O54: the state after reset holds what a reset event leaves, and no operation runs in it. -/
theorem invAtReset : Obligations.InvAtReset :=
  ⟨{ resetEvent_inv State.reset with }, [], trivial, fun h => absurd rfl h⟩

/-- Settles O55: the block's event completes or runs on, and the other agents' turns touch no register the
invariant speaks of, but reset, which establishes it. -/
theorem invKeptByEveryStep : Obligations.InvKeptByEveryStep := by
  intro s t hi h
  obtain ⟨u, hd, he⟩ | ⟨_, _, rfl⟩ | ⟨op, _, rfl⟩ | ⟨reg, v, _, _, rfl⟩ | ⟨_, _, rfl⟩ | ⟨_, rfl⟩ :=
    step_cases h
  · exact he.inv (hd.inv_clearPorts hi) (hd.portsClear he hi.portsClear)
  · exact { hi with }
  · exact { hi with }
  · exact { hi with }
  · exact { hi with }
  · exact resetEvent_inv s.popTurn

end Sys2Proof.Machine
end

section
/-! SUPPORT. The record of the ports shows the running operation's own sequence (10_state.md R70,
40_init.md R110, 41_measure.md R140). -/

namespace Sys2Proof.Machine

section SoFar

variable {s t : State} {events : List PortEvent}

/-- A delay state and its done add one delay to what the operation has shown. -/
theorem DelaySucc.soFar {ms : Millis} (h : DelaySucc s.fsm t.fsm) (hp : t.params = s.params)
    (hq : portRequest s.params s.fsm = some (.delay ms)) (hs : s.SoFar events) :
    t.SoFar (events ++ delayEvents ms) := by
  generalize hf : s.fsm = f at h
  generalize hg : t.fsm = g at h
  simp only [State.SoFar, hf, hg, hp] at hs hq ⊢
  cases h <;> cases hq
  case iPwrWait => rw [hs]; rfl
  case iResetWait => rw [hs]; rfl
  case iCalWait =>
    obtain ⟨s1, rfl⟩ := hs
    exact ⟨s1, by simp [initMiddle, tCalMs]⟩
  case mWait => rw [hs]; rfl

/-- A state that sends a command and its Ok response add one bus transaction to what the operation has
shown. -/
theorem WriteSucc.soFar {r : BusReq} (h : WriteSucc s.fsm t.fsm) (hp : t.params = s.params)
    (hq : portRequest s.params s.fsm = some (.bus r)) (hs : s.SoFar events) :
    t.SoFar (events ++ busEvents r []) := by
  generalize hf : s.fsm = f at h
  generalize hg : t.fsm = g at h
  simp only [State.SoFar, hf, hg, hp] at hs hq ⊢
  cases h <;> cases hq
  case iReset => rw [hs]
  case iCal =>
    obtain ⟨s1, hcal, rfl⟩ := hs
    exact ⟨s1, by simp [initCalibrate, hcal]⟩
  case mTrig => rw [hs]; rfl

/-- The first status read adds its transaction, and its CAL bit says whether the calibrate command follows
(R114, R123). -/
theorem onStat1_soFar (b : Byte) (hf : s.fsm = .iStat1) (hs : s.SoFar events) :
    (onStat1 [b] s).SoFar (events ++ busEvents (readStatusReq s.params) [b]) := by
  simp only [State.SoFar, hf] at hs
  subst hs
  cases hcal : calFlag b with
  | true =>
    have hb : b[3] = true := hcal
    simpa [State.SoFar, onStat1, statusOf, hcal] using ⟨b, by simp [initCalibrate, hb]⟩
  | false =>
    have hb : b[3] = false := hcal
    simpa [State.SoFar, onStat1, statusOf, hcal] using ⟨b, hb, rfl⟩

/-- The bytes of the frame that a read of 7 bytes leaves in the buffer are those read (R65). -/
theorem frameOf_bytes {rx : List Byte} (hl : rx.length = 7) : (frameOf rx).bytes = rx := by
  match rx, hl with
  | [_, _, _, _, _, _, _], _ => rfl

end SoFar

theorem traceFits_of_idle {s : State} (h : s.fsm = .idle) : s.TraceFits :=
  ⟨[], by simp [State.SoFar, h], fun hn => absurd h hn⟩

/-- With no request outstanding, the record has to show what the operation had before its state. -/
theorem traceFits_of_not_pend {s : State} (hp : s.pend = false) (h : s.SoFar (opEvents s.trace)) :
    s.TraceFits :=
  ⟨_, h, fun _ => by simp [hp]⟩

/-- With a request outstanding, the record ends in it. -/
theorem State.TraceFits.outstanding {s : State} {r : PortRequest} (h : s.TraceFits) (hp : s.pend = true)
    (hq : portRequest s.params s.fsm = some r) :
    ∃ events, s.SoFar events ∧ opEvents s.trace = events ++ [.request r] := by
  obtain ⟨events, hs, ht⟩ := h
  exact ⟨events, hs, by simpa [hp, hq] using ht (ne_idle_of_request hq)⟩

/-- After the answer to an outstanding request, the record fits if the operation's events with that request
and that answer are those of the state it goes to. -/
theorem traceFits_of_answer {s t : State} {r : PortRequest} {answer : PortEvent} (h : s.TraceFits)
    (hp : s.pend = true) (hq : portRequest s.params s.fsm = some r) (htp : t.pend = false)
    (htt : t.trace = s.trace ++ [answer])
    (ha : ∀ events, opEventsStep events answer = events ++ [answer])
    (hn : ∀ events, s.SoFar events → t.SoFar (events ++ [.request r, answer])) : t.TraceFits := by
  obtain ⟨events, hs, ht⟩ := h.outstanding hp hq
  refine traceFits_of_not_pend htp ?_
  rw [htt, opEvents_append, ht, ha, List.append_assoc]
  exact hn events hs

/-- An event of the block keeps the record fitting. -/
theorem SeqEvent.traceFits {s t : State} (h : SeqEvent s t) (hs : s.TraceFits)
    (hi : s.fsm = .idle → s.pend = false) : t.TraceFits := by
  cases h with
  | acceptInto op first hf ho =>
    refine traceFits_of_not_pend (hi hf) ?_
    rw [acceptInto_trace, opEvents_append]
    obtain ⟨_, rfl⟩ | ⟨_, rfl⟩ := ho <;> rfl
  | acceptIllegal op => exact traceFits_of_idle rfl
  | issue r hp hr =>
    obtain ⟨events, hsofar, ht⟩ := hs
    have hev : opEvents s.trace = events := by simpa [hp] using ht (ne_idle_of_request hr)
    exact ⟨events, hsofar, fun _ => by simp [hev, hr, opEventsStep]⟩
  | delayDone nextFsm hp hd hsucc =>
    obtain ⟨ms, hq⟩ := hsucc.request s.params
    exact traceFits_of_answer hs hp hq rfl rfl (fun _ => rfl)
      fun events hsofar => DelaySucc.soFar (s := s) hsucc rfl hq hsofar
  | aborted r code rx _ _ _ hc => exact traceFits_of_idle (by rw [abort_of_failed hc]; rfl)
  | written rx nextFsm hp _ hl hsucc =>
    obtain ⟨r, hq⟩ := hsucc.request s.params
    obtain rfl := List.length_eq_zero_iff.1 hl
    exact traceFits_of_answer hs hp hq rfl rfl (fun _ => rfl)
      fun events hsofar => WriteSucc.soFar (s := s) hsucc rfl hq hsofar
  | stat1 rx hf hp _ hl =>
    obtain ⟨b, rfl⟩ := List.length_eq_one_iff.1 hl
    exact traceFits_of_answer (r := .bus (readStatusReq s.params)) hs hp (by rw [hf]; rfl) rfl rfl
      (fun _ => rfl) fun events hsofar => onStat1_soFar (s := takeBusAnswer .ok [b] s) b hf hsofar
  | stat2 rx => exact traceFits_of_idle (onStat2_completed rx s).fsm
  | frameRead rx hf hp _ hl =>
    refine traceFits_of_answer (r := .bus (readFrameReq s.params)) hs hp (by rw [hf]; rfl) rfl rfl
      (fun _ => rfl) fun events hsofar => ?_
    simp only [State.SoFar, hf] at hsofar
    simp [State.SoFar, hsofar, measureSequence, busEvents, frameOf_bytes hl]
  | evaluated hf => exact traceFits_of_idle (evaluate_completed hf).fsm

/-- In IDLE no request is outstanding. -/
theorem State.Inv.pend_of_idle {s : State} (h : s.Inv) (hf : s.fsm = .idle) : s.pend = false := by
  cases hp : s.pend with
  | false => rfl
  | true => simpa [hf, portRequest] using h.pendOnRequest hp

/-- A read of the host is no event of the operation. -/
theorem State.TraceFits.emit_hostRead {s : State} (h : s.TraceFits) (reg : HostReg) (v : HostValue) :
    (s.emit (.hostRead reg v)).TraceFits := by
  obtain ⟨events, hs, ht⟩ := h
  refine ⟨events, hs, fun hn => ?_⟩
  rw [emit_trace, opEvents_append]
  exact ht hn

/-- Settles O56: each of the block's events goes on in its operation's sequence or ends it, and another
agent's turn adds nothing to the operation's events. -/
theorem traceKeepsToTheSequence : Obligations.TraceKeepsToTheSequence := by
  intro s t hi hs h
  obtain ⟨u, hd, he⟩ | ⟨_, _, rfl⟩ | ⟨op, _, rfl⟩ | ⟨reg, v, _, _, rfl⟩ | ⟨_, _, rfl⟩ | ⟨_, rfl⟩ :=
    step_cases h
  · have hu : u.TraceFits := by cases hd <;> exact hs
    refine he.traceFits hu fun hf => ?_
    rw [hd.pend]
    exact hi.pend_of_idle (hd.fsm ▸ hf)
  · exact hs
  · exact hs
  · exact State.TraceFits.emit_hostRead (s := s.popTurn) hs reg v
  · exact hs
  · exact traceFits_of_idle rfl

end Sys2Proof.Machine
end

section
/-! SUPPORT. Two states that agree in what the block acts on do the same event, whatever an earlier operation
left in their other registers (10_state.md R38). -/

namespace Sys2Proof.Machine

/-! ### Outcomes that show the same -/

/-- `s` and `t` go on to `s'` and `t'` with the same new port events, still in agreement; where a completion
is among them, it has written the same registers. -/
structure SameEvent (s t s' t' : State) : Prop where
  control : s'.SameControl t'
  shown : ∃ events, s'.trace = s.trace ++ events ∧ t'.trace = t.trace ++ events
    ∧ ∀ r c, .complete r c ∈ events → s'.result = t'.result ∧ s'.errCause = t'.errCause
      ∧ (s.fsm = .mEval → r = .ok →
          s'.temp = t'.temp ∧ s'.hum = t'.hum ∧ s'.hasReading = t'.hasReading)

/-- Two outcomes of one event: the same event in both, or the same stop. -/
inductive Alike (s t : State) : Outcome → Outcome → Prop
  | next {s' t' : State} (h : SameEvent s t s' t') : Alike s t (.next s') (.next t')
  | fault (f : Fault) : Alike s t (.fault f) (.fault f)
  | refused (r : Refusal) : Alike s t (.refused r) (.refused r)

section Events

variable {s t s' t' : State}

/-- A change of state that shows nothing. -/
theorem SameEvent.silent (h : s'.SameControl t') (hs : s'.trace = s.trace) (ht : t'.trace = t.trace) :
    SameEvent s t s' t' := ⟨h, [], by simp [hs], by simp [ht], nofun⟩

/-- A change of state that shows one event, which is no completion. -/
theorem SameEvent.single (e : PortEvent) (he : ∀ r c, e ≠ .complete r c) (h : s'.SameControl t')
    (hs : s'.trace = s.trace ++ [e]) (ht : t'.trace = t.trace ++ [e]) : SameEvent s t s' t' :=
  ⟨h, [e], hs, ht, fun r c hm => absurd (List.mem_singleton.1 hm).symm (he r c)⟩

/-- A completion writes the same result and cause in both, and in M_EVAL an Ok one the same reading. -/
theorem SameEvent.complete {r : ResultCode} {c : Cause} {reading : Option (FloatReg × FloatReg)}
    {u v : State} (before : List PortEvent) (h : u.SameControl v)
    (hs : u.trace = s.trace ++ before) (ht : v.trace = t.trace ++ before)
    (hb : ∀ r c, .complete r c ∉ before) (hr : s.fsm = .mEval → r = .ok → reading.isSome = true) :
    SameEvent s t (complete r c reading u) (complete r c reading v) where
  control := { h with fsm := rfl, pend := rfl, frame := nofun }
  shown := by
    refine ⟨before ++ [.complete r c], by simp [hs], by simp [ht], fun r' c' hm => ⟨rfl, rfl, fun hf hok => ?_⟩⟩
    obtain ⟨rfl, rfl⟩ : r' = r ∧ c' = c := by simpa [hb] using hm
    obtain ⟨reading, rfl⟩ := Option.isSome_iff_exists.1 (hr hf hok)
    exact ⟨rfl, rfl, rfl⟩

/-- Only the record and `fsm` of the states before an event matter for what it shows. -/
theorem Alike.of_same_start {u v : State} {o o' : Outcome} (h : Alike u v o o') (hs : u.trace = s.trace)
    (ht : v.trace = t.trace) (hf : u.fsm = s.fsm) : Alike s t o o' := by
  cases h with
  | next h => exact .next ⟨h.control, hs ▸ ht ▸ hf ▸ h.shown⟩
  | fault f => exact .fault f
  | refused r => exact .refused r

end Events

/-! ### The state rules -/

section StateRules

variable {s t : State} (h : s.SameControl t)
include h

theorem State.SameControl.issued (r : PortRequest) : SameEvent s t (issue r s) (issue r t) :=
  .single (.request r) nofun { h with pend := rfl } rfl rfl

/-- Going on to a state other than M_EVAL leaves nothing of the frame buffer to agree on. -/
theorem State.SameControl.delayTaken {next : Fsm} (hn : next ≠ .mEval) :
    SameEvent s t { takeDelayDone s with fsm := next } { takeDelayDone t with fsm := next } :=
  .single .delayDone nofun
    { h with fsm := rfl, pend := rfl, delayDone := rfl, frame := fun hf => absurd hf hn } rfl rfl

theorem delayState_alike (ms : Millis) {next : Fsm} (hn : next ≠ .mEval) :
    Alike s t (delayState ms next s) (delayState ms next t) := by
  cases hp : s.pend with
  | false =>
    rw [delayState_issue hp, delayState_issue (h.pend ▸ hp)]
    exact .next (h.issued _)
  | true =>
    cases hd : s.delayDone with
    | false =>
      rw [delayState_wait hp hd, delayState_wait (h.pend ▸ hp) (h.delayDone ▸ hd)]
      exact .next (.silent h rfl rfl)
    | true =>
      rw [delayState_done hp hd, delayState_done (h.pend ▸ hp) (h.delayDone ▸ hd)]
      exact .next (h.delayTaken hn)

theorem State.SameControl.aborted {code : ResultCode} (hc : code = .err ∨ code = .timeout) (rx : List Byte) :
    SameEvent s t (abort code (takeBusAnswer code rx s)) (abort code (takeBusAnswer code rx t)) := by
  rw [abort_of_failed hc, abort_of_failed hc]
  refine .complete [.busAnswer code rx] { h with pend := rfl, busResp := rfl } rfl rfl (by simp) fun _ hok => ?_
  simp [hok] at hc

theorem busState_alike (req : BusReq) {onOk : List Byte → State → State}
    (hok : ∀ rx, SameEvent s t (onOk rx (takeBusAnswer .ok rx s)) (onOk rx (takeBusAnswer .ok rx t))) :
    Alike s t (busState req onOk s) (busState req onOk t) := by
  cases hp : s.pend with
  | false =>
    rw [busState_issue hp, busState_issue (h.pend ▸ hp)]
    exact .next (h.issued _)
  | true =>
    have hpt : t.pend = true := h.pend ▸ hp
    cases hr : s.busResp with
    | none =>
      rw [busState_wait hp hr, busState_wait hpt (h.busResp ▸ hr)]
      exact .next (.silent h rfl rfl)
    | some resp =>
      have hrt : t.busResp = some resp := h.busResp ▸ hr
      obtain ⟨code, rx⟩ := resp
      have failed (hc : code = .err ∨ code = .timeout) :
          Alike s t (busState req onOk s) (busState req onOk t) := by
        rw [busState_failed hp hr hc, busState_failed hpt hrt hc]
        exact .next (h.aborted hc rx)
      cases code with
      | ok =>
        by_cases hl : rx.length = req.rxLen
        · rw [busState_ok hp hr hl, busState_ok hpt hrt hl]
          exact .next (hok rx)
        · simpa [busState, busAnswer, hp, hpt, hr, hrt, hl] using Alike.refused _
      | err => exact failed (.inl rfl)
      | timeout => exact failed (.inr rfl)
      | reserved => simpa [busState, busAnswer, hp, hpt, hr, hrt] using Alike.refused _

/-- The Ok response of a state that sends a command and reads nothing. -/
theorem State.SameControl.written {next : Fsm} (hn : next ≠ .mEval) (rx : List Byte) :
    SameEvent s t { takeBusAnswer .ok rx s with fsm := next } { takeBusAnswer .ok rx t with fsm := next } :=
  .single (.busAnswer .ok rx) nofun
    { h with fsm := rfl, pend := rfl, busResp := rfl, frame := fun hf => absurd hf hn } rfl rfl

theorem State.SameControl.stat1 (rx : List Byte) :
    SameEvent s t (onStat1 rx (takeBusAnswer .ok rx s)) (onStat1 rx (takeBusAnswer .ok rx t)) := by
  refine .single (.busAnswer .ok rx) nofun
    { h with fsm := rfl, pend := rfl, busResp := rfl, frame := fun hf => ?_ } rfl rfl
  simp only [onStat1] at hf
  split at hf <;> cases hf

/-- The second status read completes by its own byte alone (R117): what `st` held before is not read. -/
theorem State.SameControl.stat2 (hf : s.fsm = .iStat2) (rx : List Byte) :
    SameEvent s t (onStat2 rx (takeBusAnswer .ok rx s)) (onStat2 rx (takeBusAnswer .ok rx t)) := by
  have hn : s.fsm ≠ .mEval := by simp [hf]
  unfold onStat2
  split <;> exact .complete [.busAnswer .ok rx] { h with pend := rfl, busResp := rfl } rfl rfl (by simp)
    fun hm => absurd hm hn

/-- The frame read leaves the same bytes in both buffers (R143). -/
theorem State.SameControl.frameRead (rx : List Byte) :
    SameEvent s t { takeBusAnswer .ok rx s with frame := frameOf rx, fsm := .mEval }
      { takeBusAnswer .ok rx t with frame := frameOf rx, fsm := .mEval } :=
  .single (.busAnswer .ok rx) nofun
    { h with fsm := rfl, pend := rfl, busResp := rfl, frame := fun _ => rfl } rfl rfl

/-- The evaluation depends on the frame and FLOAT_FORMAT alone (R144, R152). -/
theorem State.SameControl.evaluated (hf : s.fsm = .mEval) : SameEvent s t (evaluate s) (evaluate t) := by
  have failed {r : ResultCode} {c : Cause} (hr : r ≠ .ok) :
      SameEvent s t (complete r c none s) (complete r c none t) :=
    .complete [] h (by simp) (by simp) (by simp) fun _ hok => absurd hok hr
  simp only [evaluate, completeReading, ← h.frame hf, ← h.params]
  split
  · exact failed nofun
  · split
    · exact .complete [] { h with params := rfl, frame := fun _ => rfl } (by simp) (by simp) (by simp)
        fun _ _ => rfl
    · exact failed nofun

theorem stateIStat2_alike (hf : s.fsm = .iStat2) : Alike s t (stateIStat2 s) (stateIStat2 t) := by
  simp only [stateIStat2, ← h.params]
  exact busState_alike h _ (h.stat2 hf)

theorem stateIStat1_alike : Alike s t (stateIStat1 s) (stateIStat1 t) := by
  simp only [stateIStat1, ← h.params]
  exact busState_alike h _ h.stat1

theorem stateIReset_alike : Alike s t (stateIReset s) (stateIReset t) := by
  simp only [stateIReset, ← h.params]
  exact busState_alike h _ (h.written nofun)

theorem stateICal_alike : Alike s t (stateICal s) (stateICal t) := by
  simp only [stateICal, ← h.params]
  exact busState_alike h _ (h.written nofun)

theorem stateMTrig_alike : Alike s t (stateMTrig s) (stateMTrig t) := by
  simp only [stateMTrig, ← h.params]
  exact busState_alike h _ (h.written nofun)

theorem stateMRead_alike : Alike s t (stateMRead s) (stateMRead t) := by
  simp only [stateMRead, ← h.params]
  exact busState_alike h _ h.frameRead

/-! ### The instructions -/

theorem State.SameControl.acceptedInto (op : OpCode) {first : Fsm} (hn : first ≠ .mEval) :
    SameEvent s t (acceptInto op first s) (acceptInto op first t) :=
  .single (.accept op) nofun
    { h with fsm := rfl, requests := congrArg List.tail h.requests, frame := fun hf => absurd hf hn } rfl rfl

theorem State.SameControl.acceptedIllegal (op : OpCode) (hf : s.fsm = .idle) :
    SameEvent s t (acceptIllegal op s) (acceptIllegal op t) :=
  .complete [.accept op] { h with requests := congrArg List.tail h.requests } rfl rfl (by simp)
    fun hm => by simp [hf] at hm

theorem execInit_alike : Alike s t (execInit s) (execInit t) := by
  unfold execInit
  rw [← h.fsm]
  split
  · exact .next (h.acceptedInto _ nofun)
  · exact delayState_alike h _ nofun
  · exact stateIReset_alike h
  · exact delayState_alike h _ nofun
  · exact stateIStat1_alike h
  · exact stateICal_alike h
  · exact delayState_alike h _ nofun
  · next hf => exact stateIStat2_alike h hf
  · exact .next (.silent h rfl rfl)
  · exact .next (.silent h rfl rfl)
  · exact .next (.silent h rfl rfl)
  · exact .next (.silent h rfl rfl)
  · exact .fault _

theorem execMeasure_alike : Alike s t (execMeasure s) (execMeasure t) := by
  unfold execMeasure
  rw [← h.fsm]
  split
  · exact .next (h.acceptedInto _ nofun)
  · exact stateMTrig_alike h
  · exact delayState_alike h _ nofun
  · exact stateMRead_alike h
  · next hf => exact .next (h.evaluated hf)
  · exact .next (.silent h rfl rfl)
  · exact .next (.silent h rfl rfl)
  · exact .next (.silent h rfl rfl)
  · exact .next (.silent h rfl rfl)
  · exact .next (.silent h rfl rfl)
  · exact .next (.silent h rfl rfl)
  · exact .next (.silent h rfl rfl)
  · exact .fault _

theorem illegalRequest_alike (op : OpCode) : Alike s t (illegalRequest op s) (illegalRequest op t) := by
  unfold illegalRequest
  rw [← h.fsm]
  split
  · next hf => exact .next (h.acceptedIllegal op hf)
  · exact .fault _
  · exact .next (.silent h rfl rfl)

theorem execDevSoftReset_alike : Alike s t (execDevSoftReset s) (execDevSoftReset t) := by
  unfold execDevSoftReset
  rw [← h.fsm]
  split
  · exact stateIReset_alike h
  · exact .fault _
  · exact .refused _

theorem execDevReadStatus_alike : Alike s t (execDevReadStatus s) (execDevReadStatus t) := by
  unfold execDevReadStatus
  rw [← h.fsm]
  split
  · exact stateIStat1_alike h
  · next hf => exact stateIStat2_alike h hf
  · exact .fault _
  · exact .refused _

theorem execDevCalibrate_alike : Alike s t (execDevCalibrate s) (execDevCalibrate t) := by
  unfold execDevCalibrate
  rw [← h.fsm]
  split
  · exact stateICal_alike h
  · exact .fault _
  · exact .refused _

theorem execDevTrigger_alike : Alike s t (execDevTrigger s) (execDevTrigger t) := by
  unfold execDevTrigger
  rw [← h.fsm]
  split
  · exact stateMTrig_alike h
  · exact .fault _
  · exact .refused _

theorem exec_alike (i : Instr) : Alike s t (exec i s) (exec i t) := by
  cases i with
  | init => exact execInit_alike h
  | measure => exact execMeasure_alike h
  | illegal00 => exact illegalRequest_alike h _
  | illegal11 => exact illegalRequest_alike h _
  | devSoftReset => exact execDevSoftReset_alike h
  | devReadStatus => exact execDevReadStatus_alike h
  | devCalibrate => exact execDevCalibrate_alike h
  | devTrigger => exact execDevTrigger_alike h

/-! ### The turns -/

theorem State.SameControl.fetched : fetch s = fetch t := by
  simp only [fetch, h.fsm, h.requests]

theorem sequencerTurn_alike : Alike s t (sequencerTurn s) (sequencerTurn t) := by
  simp only [sequencerTurn, ← h.fetched]
  split
  · exact .next (.silent h rfl rfl)
  · exact exec_alike h _
  · exact .fault _

theorem State.SameControl.busPending : s.busPending = t.busPending := by
  simp only [State.busPending, h.fsm, h.pend, h.params]

theorem State.SameControl.delayPending : s.delayPending = t.delayPending := by
  simp only [State.delayPending, h.fsm, h.pend, h.params]

/-- Every agent's turn but a read of the host, which is there to show the registers. -/
theorem agentTurn_alike {turn : Turn} (hn : ∀ reg, turn ≠ .hostRead reg) :
    Alike s t (agentTurn turn s) (agentTurn turn t) := by
  cases turn with
  | sequencer => exact sequencerTurn_alike h
  | request op =>
    exact .next (.silent { h with requests := congrArg (· ++ [op]) h.requests } rfl rfl)
  | hostRead reg => exact absurd rfl (hn reg)
  | busAnswer code rx =>
    simp only [agentTurn, ← h.busPending]
    split
    · have hd : (deliverBusAnswer code rx s).SameControl (deliverBusAnswer code rx t) :=
        { h with busResp := rfl }
      exact (sequencerTurn_alike hd).of_same_start rfl rfl rfl
    · exact .refused _
  | delayDone =>
    simp only [agentTurn, ← h.delayPending]
    split
    · have hd : (deliverDelayDone s).SameControl (deliverDelayDone t) := { h with delayDone := rfl }
      exact (sequencerTurn_alike hd).of_same_start rfl rfl rfl
    · exact .refused _
  | lateAnswer =>
    simp only [agentTurn, lateAnswer, ← h.abandoned]
    split
    · exact .refused _
    · exact .next (.silent { h with abandoned := rfl } rfl rfl)
  | reset =>
    refine .next (.single .reset nofun ?_ rfl rfl)
    exact ⟨rfl, rfl, h.params, h.requests, rfl, rfl, by simp [h.abandoned, h.pend], h.schedule, nofun⟩

theorem takeTurn_alike {turn : Turn} (hn : ∀ reg, turn ≠ .hostRead reg) :
    Alike s t (takeTurn turn s) (takeTurn turn t) := by
  simp only [takeTurn, ← h.fsm]
  split
  · exact .fault _
  · exact agentTurn_alike h hn

theorem step_alike (hn : ∀ reg, s.nextTurn ≠ .hostRead reg) : Alike s t (step s) (step t) := by
  have hp : s.popTurn.SameControl t.popTurn := { h with schedule := congrArg List.tail h.schedule }
  have ht : t.nextTurn = s.nextTurn := by simp only [State.nextTurn, h.schedule]
  rw [step_eq s, step_eq t, ht]
  exact (takeTurn_alike hp hn).of_same_start rfl rfl rfl

end StateRules

/-- Settles O58: every agent's turn but a host read is alike in two states that agree in what the block acts
on. -/
theorem noHistory : Obligations.NoHistory := by
  intro s t h hn
  have ha := step_alike h hn
  generalize step s = o at ha
  generalize step t = o' at ha
  cases ha with
  | @next s' t' hs =>
    obtain ⟨events, hes, het, hc⟩ := hs.shown
    rw [← eventsSince_of_append hes] at hc
    exact .inl ⟨s', t', rfl, rfl, hs.control,
      (eventsSince_of_append hes).trans (eventsSince_of_append het).symm, hc⟩
  | fault f => exact .inr (.inl ⟨f, rfl, rfl⟩)
  | refused r => exact .inr (.inr ⟨r, rfl, rfl⟩)

end Sys2Proof.Machine
end

section
/-! SUPPORT. What the block leaves unchanged, what each of its events shows at the ports, and how far it
brings its operation (10_state.md R21, R22, R29, R30, R35, R248). -/

namespace Sys2Proof.Machine

/-! ### The result registers (R232, R270) -/

/-- Settles O25: an event that runs on keeps the result registers, and no other agent but reset writes them. -/
theorem resultsChangeOnlyAtComplete : Obligations.ResultsChangeOnlyAtComplete := by
  intro s t h hn hchange
  obtain ⟨u, hd, he⟩ | ⟨_, _, rfl⟩ | ⟨op, _, rfl⟩ | ⟨reg, v, _, _, rfl⟩ | ⟨_, _, rfl⟩ | ⟨hr, _⟩ :=
    step_cases h
  · rw [hd.eventsSince]
    rw [← hd.result, ← hd.errCause, ← hd.temp, ← hd.hum, ← hd.hasReading, ← hd.done] at hchange
    obtain hc | hc := he.completed_or_runsOn
    · obtain ⟨before, hs⟩ := hc.shown
      rw [List.append_assoc] at hs
      exact ⟨by simp [eventsSince_of_append hs], hc.done, hc.pend, hc.fsm⟩
    · have hset : ¬ (t.done = true ∧ u.done = false) := by
        rw [hc.done]
        split <;> simp
      simp [hc.result, hc.errCause, hc.temp, hc.hum, hc.hasReading, hset] at hchange
  · simp at hchange
  · simp at hchange
  · simp at hchange
  · simp at hchange
  · exact absurd hr hn

/-! ### The frames of the instructions -/

/-- INIT and its wire commands do none of MEASURE's own events. -/
theorem exec_initFamily_event {i : Instr} {s t : State}
    (hi : i ∈ [Instr.init, .devSoftReset, .devReadStatus, .devCalibrate]) (h : exec i s = .next t) :
    t = s ∨ (SeqEvent s t ∧ s.fsm ≠ .mRead ∧ s.fsm ≠ .mEval) := by
  by_cases hf : s.fsm = .mRead ∨ s.fsm = .mEval
  · left
    simp only [List.mem_cons, List.not_mem_nil, or_false] at hi
    obtain rfl | rfl | rfl | rfl := hi
    · obtain hf | hf := hf <;> simpa [exec, execInit, hf, eq_comm] using h
    · obtain hf | hf := hf <;> simp [exec, execDevSoftReset, hf] at h
    · obtain hf | hf := hf <;> simp [exec, execDevReadStatus, hf] at h
    · obtain hf | hf := hf <;> simp [exec, execDevCalibrate, hf] at h
  · rw [not_or] at hf
    exact (exec_event h).elim (fun he => .inr ⟨he, hf⟩) fun hs => .inl hs.1

/-- MEASURE and its wire command do none of INIT's status reads. -/
theorem exec_measureFamily_event {i : Instr} {s t : State} (hi : i ∈ [Instr.measure, .devTrigger])
    (h : exec i s = .next t) : t = s ∨ (SeqEvent s t ∧ s.fsm ≠ .iStat1 ∧ s.fsm ≠ .iStat2) := by
  by_cases hf : s.fsm = .iStat1 ∨ s.fsm = .iStat2
  · left
    simp only [List.mem_cons, List.not_mem_nil, or_false] at hi
    obtain rfl | rfl := hi
    · obtain hf | hf := hf <;> simpa [exec, execMeasure, hf, eq_comm] using h
    · obtain hf | hf := hf <;> simp [exec, execDevTrigger, hf] at h
  · rw [not_or] at hf
    exact (exec_event h).elim (fun he => .inr ⟨he, hf⟩) fun hs => .inl hs.1

/-- Only an event that ends in IDLE writes RESULT and ERR_CAUSE. -/
theorem SeqEvent.results_of_running {s t : State} (h : SeqEvent s t) (hf : t.fsm ≠ .idle) :
    t.result = s.result ∧ t.errCause = s.errCause :=
  h.completed_or_runsOn.elim (fun hc => absurd hc.fsm hf) fun hc => ⟨hc.result, hc.errCause⟩

/-- Between Accept and Complete DONE is kept. -/
theorem SeqEvent.done_of_running {s t : State} (h : SeqEvent s t) (hs : s.fsm ≠ .idle) (ht : t.fsm ≠ .idle) :
    t.done = s.done :=
  h.completed_or_runsOn.elim (fun hc => absurd hc.fsm ht) fun hc => hc.done.trans (if_neg hs)

/-- Only the evaluation writes TEMP and HUM (R147). -/
theorem SeqEvent.reading_kept {s t : State} (h : SeqEvent s t) (hf : s.fsm ≠ .mEval) :
    t.temp = s.temp ∧ t.hum = s.hum ∧ t.hasReading = s.hasReading :=
  h.completed_or_runsOn.elim (fun hc => hc.reading.resolve_right fun hm => hf hm.1)
    fun hc => ⟨hc.temp, hc.hum, hc.hasReading⟩

/-- Settles O27: what an event of the block keeps, in the states that do an event of INIT. -/
theorem initFrame : Obligations.InitFrame := by
  intro i s t hi h
  obtain rfl | ⟨he, hread, heval⟩ := exec_initFamily_event hi h
  · simp
  · have hk := he.seqFrame
    obtain ⟨hrawT, hrawH⟩ := hk.raw heval
    obtain ⟨htemp, hhum, hreading⟩ := he.reading_kept heval
    exact ⟨hk.frame hread, hrawT, hrawH, htemp, hhum, hreading, he.params, hk.schedule, hk.abandoned,
      he.results_of_running, fun hs => ⟨hk.requests hs, he.done_of_running hs⟩, hk.st⟩

/-- Settles O28: what an event of the block keeps, in the states that do an event of MEASURE. -/
theorem measureFrame : Obligations.MeasureFrame := by
  intro i s t hi h
  obtain rfl | ⟨he, hstat1, hstat2⟩ := exec_measureFamily_event hi h
  · simp
  · have hk := he.seqFrame
    exact ⟨hk.st hstat1 hstat2, he.params, hk.schedule, hk.abandoned, hk.frame,
      fun hf => ⟨(hk.raw hf).1, (hk.raw hf).2, he.reading_kept hf⟩,
      he.results_of_running, fun hs => ⟨hk.requests hs, he.done_of_running hs⟩⟩

/-- Every way in which a reserved code's event answers a next state (R235). -/
theorem illegalRequest_next {op : OpCode} {s t : State} (h : illegalRequest op s = .next t) :
    (s.fsm = .idle ∧ t = acceptIllegal op s) ∨ t = s := by
  unfold illegalRequest at h
  split at h
  · next hf => cases h; exact .inl ⟨hf, rfl⟩
  · cases h
  · cases h; exact .inr rfl

/-- Settles O29: a reserved code is accepted and completes in IDLE, and waits in every other state. -/
theorem illegalFrame : Obligations.IllegalFrame := by
  intro i s t hi h
  obtain ⟨op, hop⟩ : ∃ op, illegalRequest op s = .next t := by
    simp only [List.mem_cons, List.not_mem_nil, or_false] at hi
    obtain rfl | rfl := hi
    · exact ⟨_, h⟩
    · exact ⟨_, h⟩
  obtain ⟨hf, rfl⟩ | rfl := illegalRequest_next hop
  · have hs : s.eventsSince (acceptIllegal op s) = [.accept op, .complete .err .illegalOp] :=
      eventsSince_of_append (by simp)
    rw [hs]
    simp [hf, requestsIn]
  · simp [State.eventsSince, requestsIn]

/-! ### What an event shows at the ports -/

/-- The port events of one event of the block, with what each asks of the state before it and leaves in the
state after it (R21, R22, R30, R232). -/
inductive Shows (s t : State) : List PortEvent → Prop
  | accept (op : OpCode) (hf : s.fsm = .idle) : Shows s t [.accept op]
  | acceptIllegal (op : OpCode) (hf : s.fsm = .idle) : Shows s t [.accept op, .complete .err .illegalOp]
  | request (r : PortRequest) (hp : s.pend = false) (hr : portRequest s.params s.fsm = some r)
      (ht : t.pend = true) (hf : t.fsm = s.fsm) : Shows s t [.request r]
  | delayDone (hd : s.delayDone = true) (ht : t.pend = false) : Shows s t [.delayDone]
  | busAnswer (code : ResultCode) (rx : List Byte) (ha : s.busResp = some ⟨code, rx⟩) (ht : t.pend = false) :
      Shows s t [.busAnswer code rx]
  | lastAnswer (code : ResultCode) (rx : List Byte) (r : ResultCode) (c : Cause)
      (ha : s.busResp = some ⟨code, rx⟩) (ht : t.pend = false) :
      Shows s t [.busAnswer code rx, .complete r c]
  | evaluated (r : ResultCode) (c : Cause) : Shows s t [.complete r c]

theorem SeqEvent.shows {s t : State} (h : SeqEvent s t) : Shows s t (s.eventsSince t) := by
  have of {events : List PortEvent} (hs : Shows s t events) (ht : t.trace = s.trace ++ events) :
      Shows s t (s.eventsSince t) := by rwa [eventsSince_of_append ht]
  cases h with
  | acceptInto op first hi => exact of (.accept op hi) rfl
  | acceptIllegal op hi => exact of (.acceptIllegal op hi) (by simp)
  | issue r hp hr => exact of (.request r hp hr rfl rfl) rfl
  | delayDone nextFsm _ hd => exact of (.delayDone hd rfl) rfl
  | aborted r code rx _ _ ha hc =>
    rw [abort_of_failed hc] at of ⊢
    exact of (.lastAnswer code rx code .transport ha rfl) (by simp)
  | written rx nextFsm _ ha => exact of (.busAnswer .ok rx ha rfl) rfl
  | stat1 rx _ _ ha => exact of (.busAnswer .ok rx ha rfl) rfl
  | stat2 rx _ _ ha =>
    obtain ⟨r, c, ht⟩ := onStat2_trace rx (takeBusAnswer .ok rx s)
    exact of (.lastAnswer .ok rx r c ha (onStat2_completed rx s).pend) (by simp [ht])
  | frameRead rx _ _ ha => exact of (.busAnswer .ok rx ha rfl) rfl
  | evaluated =>
    obtain ⟨r, c, ht⟩ := evaluate_trace s
    exact of (.evaluated r c) ht

/-- The port events of a step: one event of the block's, or what another agent does, which is no request, no
answer and no Accept. -/
theorem step_shows {s t : State} (h : step s = .next t) :
    (∃ u, Delivered s u ∧ Shows u t (s.eventsSince t))
    ∨ s.eventsSince t = [] ∨ (∃ reg v, s.eventsSince t = [.hostRead reg v]) ∨ s.eventsSince t = [.reset] := by
  obtain ⟨u, hd, he⟩ | ⟨_, _, rfl⟩ | ⟨op, _, rfl⟩ | ⟨reg, v, _, _, rfl⟩ | ⟨_, _, rfl⟩ | ⟨_, rfl⟩ :=
    step_cases h
  · exact .inl ⟨u, hd, hd.eventsSince t ▸ he.shows⟩
  · exact .inr (.inl (eventsSince_of_append (by simp)))
  · exact .inr (.inl (eventsSince_of_append (by simp)))
  · exact .inr (.inr (.inl ⟨reg, v, eventsSince_of_append rfl⟩))
  · exact .inr (.inl (eventsSince_of_append (by simp)))
  · exact .inr (.inr (.inr (eventsSince_of_append rfl)))

/-- A bus and a delay request are never outstanding together (R21). -/
theorem not_both_pending (s : State) : ¬ (s.busPending = true ∧ s.delayPending = true) := by
  rintro ⟨hb, hd⟩
  obtain ⟨_, r, hr⟩ := busPending_iff.1 hb
  rw [delayPending_of_bus hr] at hd
  cases hd

/-- Settles O38: from what an event of the block shows, and that its answer is the one this turn delivers. -/
theorem oneRequestOutstanding : Obligations.OneRequestOutstanding := by
  intro s t hi h _
  have clear := hi.portsClear
  rw [← and_assoc, ← and_assoc]
  refine ⟨?_, not_both_pending s⟩
  obtain ⟨u, hd, hs⟩ | hs | ⟨reg, v, hs⟩ | hs := step_shows h
  · have answered {code : ResultCode} {rx : List Byte} (ha : u.busResp = some ⟨code, rx⟩) :=
      hd.busResp clear.1 ha
    generalize s.eventsSince t = events at hs ⊢
    cases hs with
    | accept op => simp
    | acceptIllegal op => simp
    | request r hp hr ht hf =>
      rw [hd.pend] at hp
      rw [hd.params, hd.fsm] at hr
      rw [hd.fsm] at hf
      simp [hp, hr, ht, hf, State.busPending]
    | delayDone hy ht => simp [hd.delayDone clear.2 hy, ht]
    | busAnswer code rx ha ht => simp [answered ha, ht]
    | lastAnswer code rx r c ha ht => simp [answered ha, ht]
    | evaluated r c => simp
  all_goals simp [hs]

/-! ### Progress (R248) -/

theorem DelaySucc.stagesLeft_lt {f g : Fsm} (h : DelaySucc f g) : stagesLeft g < stagesLeft f := by
  cases h <;> decide

theorem WriteSucc.stagesLeft_lt {f g : Fsm} (h : WriteSucc f g) : stagesLeft g < stagesLeft f := by
  cases h <;> decide

theorem stagesLeft_le (f : Fsm) : stagesLeft f ≤ 7 := by cases f <;> simp [stagesLeft]

theorem stagesLeft_pos {f : Fsm} (hf : f ≠ .idle) (hl : f.code.toNat < 12) : 0 < stagesLeft f := by
  cases f with
  | idle => exact absurd rfl hf
  | reserved low => exact absurd (reserved_code low) (by omega)
  | _ => simp [stagesLeft]

theorem eventsLeft_of_idle {s : State} (h : s.fsm = .idle) : s.eventsLeft = 0 := by
  simp [State.eventsLeft, h, stagesLeft]

theorem eventsLeft_pos {s : State} (hf : s.fsm ≠ .idle) (hl : s.fsm.code.toNat < 12) : 0 < s.eventsLeft := by
  have := stagesLeft_pos hf hl
  unfold State.eventsLeft
  split <;> omega

theorem eventsLeft_lt_of_stagesLeft_lt {s t : State} (h : stagesLeft t.fsm < stagesLeft s.fsm) :
    t.eventsLeft < s.eventsLeft := by
  unfold State.eventsLeft
  split <;> split <;> omega

/-- Every event of a running operation brings it nearer to its end. -/
theorem SeqEvent.eventsLeft_lt {s t : State} (h : SeqEvent s t) (hf : s.fsm ≠ .idle)
    (hl : s.fsm.code.toNat < 12) : t.eventsLeft < s.eventsLeft := by
  have ended (ht : t.fsm = .idle) : t.eventsLeft < s.eventsLeft :=
    eventsLeft_of_idle ht ▸ eventsLeft_pos hf hl
  cases h with
  | acceptInto op first hi => exact absurd hi hf
  | acceptIllegal op => exact ended rfl
  | issue r hp =>
    have := stagesLeft_pos hf hl
    simp only [State.eventsLeft, issue_fsm, issue_pend, hp]
    simp
    omega
  | delayDone nextFsm _ _ hs => exact eventsLeft_lt_of_stagesLeft_lt hs.stagesLeft_lt
  | aborted r code rx _ _ _ hc => exact ended (by rw [abort_of_failed hc]; rfl)
  | written rx nextFsm _ _ _ hs => exact eventsLeft_lt_of_stagesLeft_lt hs.stagesLeft_lt
  | stat1 rx hst =>
    refine eventsLeft_lt_of_stagesLeft_lt ?_
    unfold onStat1
    cases calFlag (statusOf rx) <;> simp [hst, stagesLeft]
  | stat2 rx => exact ended (onStat2_completed rx s).fsm
  | frameRead rx hm => exact eventsLeft_lt_of_stagesLeft_lt (by simp [hm, stagesLeft])
  | evaluated hm => exact ended (evaluate_completed hm).fsm

theorem Delivered.eventsLeft {s u : State} (h : Delivered s u) : u.eventsLeft = s.eventsLeft := by
  cases h <;> rfl

/-- The states of the invariant that have no event left are the idle ones. -/
theorem eventsLeft_eq_zero_iff {s : State} (hi : s.Inv) : s.eventsLeft = 0 ↔ s.fsm = .idle :=
  ⟨fun h => by_contra fun hf => (eventsLeft_pos hf hi.fsmLegal).ne' h, eventsLeft_of_idle⟩

/-- Nothing is left to wait for where no request is outstanding and an operation runs. -/
theorem Quiet.pend {s : State} (h : Quiet s) (hf : s.fsm ≠ .idle) : s.pend = true := by
  obtain ⟨hi, _⟩ | ⟨⟨hp, _⟩ | ⟨hp, _⟩⟩ := h
  · exact absurd hi hf
  · exact (busPending_iff.1 hp).1
  · exact (delayPending_iff.1 hp).1

/-- Settles O59: the block's own events lower the measure, and the other agents' turns keep `fsm` and
`pend`. -/
theorem operationsMakeProgress : Obligations.OperationsMakeProgress := by
  intro s t hi hf h hn
  have bound : s.eventsLeft ≤ 14 := by
    have := stagesLeft_le s.fsm
    unfold State.eventsLeft
    omega
  have last := eventsLeft_eq_zero_iff (invKeptByEveryStep s t hi h)
  obtain ⟨u, hd, he⟩ | ⟨hq, hquiet, rfl⟩ | ⟨op, hq, rfl⟩ | ⟨reg, v, hq, _, rfl⟩ | ⟨hq, _, rfl⟩ | ⟨hq, _⟩ :=
    step_cases h
  · have hlt := he.eventsLeft_lt (hd.fsm ▸ hf) (hd.fsm ▸ hi.fsmLegal)
    rw [hd.eventsLeft] at hlt
    exact ⟨hlt.le, bound, fun _ => hlt, last⟩
  · exact ⟨le_rfl, bound, by simp [hq, hquiet.pend hf], last⟩
  · exact ⟨le_rfl, bound, by simp [hq], last⟩
  · exact ⟨le_rfl, bound, by simp [hq], last⟩
  · exact ⟨le_rfl, bound, by simp [hq], last⟩
  · exact absurd hq hn

end Sys2Proof.Machine
end

section
/-! SUPPORT. What a step runs, and where it stops (10_state.md R20, R22, R23, R25, R26, R40, R41; 30_encoding.md
R94). -/

namespace Sys2Proof.Machine

/-! ### The Sequencer's turn -/

/-- In a state that issues a bus request, the Sequencer's turn is that bus state's event. -/
theorem sequencerTurn_bus {s : State} {r : BusReq} (h : portRequest s.params s.fsm = some (.bus r)) :
    ∃ onOk, sequencerTurn s = busState r onOk s := by
  obtain ⟨i, hi, onOk, he⟩ := fetch_bus h
  exact ⟨onOk, by simp only [sequencerTurn, hi, he s rfl rfl]⟩

/-- In a state that issues a delay request, the Sequencer's turn is that delay state's event. -/
theorem sequencerTurn_delay {s : State} {ms : Millis} (h : portRequest s.params s.fsm = some (.delay ms)) :
    ∃ nextFsm, sequencerTurn s = delayState ms nextFsm s := by
  obtain ⟨i, hi, nextFsm, he⟩ := fetch_delay h
  exact ⟨nextFsm, by simp only [sequencerTurn, hi, he s rfl]⟩

/-- The four values of `req_op` (R80). -/
theorem opCode_cases (op : OpCode) : op = 0b00#2 ∨ op = 0b01#2 ∨ op = 0b10#2 ∨ op = 0b11#2 := by
  revert op; decide

/-- What Accept does with the request `op` (R22, R235). -/
def acceptRequest (op : OpCode) (s : State) : State :=
  if op = 0b01#2 then acceptInto op .iPwrWait s
  else if op = 0b10#2 then acceptInto op .mTrig s
  else acceptIllegal op s

/-- In IDLE the instruction of a `req_op` is accepted, whichever it is (R22, R81). -/
theorem exec_hostOp_of_idle (op : OpCode) {s : State} (hf : s.fsm = .idle) :
    exec (decodeHostOp op) s = .next (acceptRequest op s) := by
  obtain rfl | rfl | rfl | rfl := opCode_cases op
  · simp [decodeHostOp, acceptRequest, exec, execIllegal00, illegalRequest, hf]
  · simp [decodeHostOp, acceptRequest, exec, execInit, hf]
  · simp [decodeHostOp, acceptRequest, exec, execMeasure, hf]
  · simp [decodeHostOp, acceptRequest, exec, execIllegal11, illegalRequest, hf]

theorem acceptRequest_requests (op : OpCode) (s : State) :
    (acceptRequest op s).requests = s.requests.tail := by
  unfold acceptRequest
  split
  · rfl
  · split <;> rfl

/-- Accept shows the `req_op` it accepts, and no other. -/
theorem accept_mem_acceptRequest {op op' : OpCode} {s t : State} (hs : t.trace = s.trace) :
    .accept op' ∈ s.eventsSince (acceptRequest op t) ↔ op' = op := by
  have shown {u : State} {events : List PortEvent} (hu : u.trace = t.trace ++ events) :
      s.eventsSince u = events := eventsSince_of_append (hs ▸ hu)
  unfold acceptRequest
  split
  · simp [shown (acceptInto_trace ..)]
  · split
    · simp [shown (acceptInto_trace ..)]
    · rw [shown ((acceptIllegal_trace op t).trans (List.append_assoc ..))]
      simp

/-- In IDLE and in M_EVAL, which issue no request, the Sequencer's turn answers. -/
theorem sequencerTurn_of_no_request {s : State} (hl : s.fsm.code.toNat < 12)
    (h : portRequest s.params s.fsm = none) : ∃ t, sequencerTurn s = .next t := by
  cases hf : s.fsm <;> rw [hf] at h hl
  case idle =>
    cases hr : s.requests with
    | nil => exact ⟨s, by simp [sequencerTurn, fetch, hf, hr]⟩
    | cons op rest =>
      exact ⟨_, by simp only [sequencerTurn, fetch, hf, hr]; exact exec_hostOp_of_idle op hf⟩
  case mEval => exact ⟨evaluate s, by simp [sequencerTurn, fetch, exec, execMeasure, hf]⟩
  case reserved low => exact absurd (reserved_code low) (by omega)
  all_goals cases h

/-- Within the rules the Sequencer's turn never faults. -/
theorem sequencerTurn_ne_fault {s : State} (hl : s.fsm.code.toNat < 12) (f : Fault) :
    sequencerTurn s ≠ .fault f := by
  intro h
  match hq : portRequest s.params s.fsm with
  | none =>
    obtain ⟨t, ht⟩ := sequencerTurn_of_no_request hl hq
    simp [ht] at h
  | some (.bus r) =>
    obtain ⟨onOk, he⟩ := sequencerTurn_bus hq
    exact busState_fault (he ▸ h)
  | some (.delay ms) =>
    obtain ⟨nextFsm, he⟩ := sequencerTurn_delay hq
    obtain ⟨t, ht⟩ := delayState_total ms nextFsm s
    simp [he, ht] at h

/-- How a bus response can break the contract of R25. -/
inductive Breach (req : BusReq) (resp : BusResp) : Refusal → Prop
  | length (hc : resp.code = .ok) (hl : resp.rx.length ≠ req.rxLen) : Breach req resp .responseLength
  | code (hc : resp.code = .reserved) : Breach req resp .responseCode

/-- A bus state refuses exactly the responses that break the contract. -/
theorem busAnswer_refused_iff {req : BusReq} {onOk : List Byte → State → State} {resp : BusResp} {s : State}
    {r : Refusal} : busAnswer req onOk resp s = .refused r ↔ Breach req resp r := by
  constructor
  · intro h
    unfold busAnswer at h
    split at h
    · next hc =>
      split at h
      · cases h
      · next hl => cases h; exact .length hc hl
    · cases h
    · cases h
    · next hc => cases h; exact .code hc
  · rintro (⟨hc, hl⟩ | hc)
    · simp [busAnswer, hc, hl]
    · simp [busAnswer, hc]

/-- The Sequencer's turn refuses only a response that breaks the contract of the outstanding request. -/
theorem sequencerTurn_refused {s : State} {r : Refusal} (hl : s.fsm.code.toNat < 12)
    (h : sequencerTurn s = .refused r) :
    ∃ req resp, portRequest s.params s.fsm = some (.bus req) ∧ s.busResp = some resp ∧ Breach req resp r := by
  match hq : portRequest s.params s.fsm with
  | none =>
    obtain ⟨t, ht⟩ := sequencerTurn_of_no_request hl hq
    simp [ht] at h
  | some (.delay ms) =>
    obtain ⟨nextFsm, he⟩ := sequencerTurn_delay hq
    obtain ⟨t, ht⟩ := delayState_total ms nextFsm s
    simp [he, ht] at h
  | some (.bus req) =>
    obtain ⟨onOk, he⟩ := sequencerTurn_bus hq
    rw [he, busState] at h
    split at h
    · split at h
      · next resp hr => exact ⟨req, resp, rfl, hr, busAnswer_refused_iff.1 h⟩
      · cases h
    · cases h

/-! ### Refusals -/

/-- Settles O23: the step that delivers the response is the answer event, which refuses
every breach of the contract. -/
theorem contractBreachRefused : Obligations.ContractBreachRefused := by
  intro s code rx hn
  refine ⟨fun hl hb => ?_, fun r hp hq => ?_⟩
  · rw [step_of_legal hl, hn]
    simp [agentTurn, hb]
  · obtain ⟨onOk, he⟩ := step_busAnswer hp hq hn
    rw [he]
    exact ⟨fun hc hl => busAnswer_refused_iff.2 (.length hc hl), fun hc => busAnswer_refused_iff.2 (.code hc)⟩

/-- Every way in which an agent's turn is refused within the rules, with no response at the bus port before it:
an answer to no request, or the response of this turn breaks the contract. -/
theorem agentTurn_refused {turn : Turn} {s : State} {r : Refusal} (hl : s.fsm.code.toNat < 12)
    (hc : s.busResp = none) (h : agentTurn turn s = .refused r) :
    (r = .unsolicitedAnswer ∧ ((∃ code rx, turn = .busAnswer code rx ∧ s.busPending = false)
        ∨ (turn = .delayDone ∧ s.delayPending = false) ∨ (turn = .lateAnswer ∧ s.abandoned = 0)))
    ∨ ∃ code rx req, turn = .busAnswer code rx ∧ s.busPending = true
        ∧ portRequest s.params s.fsm = some (.bus req) ∧ Breach req ⟨code, rx⟩ r := by
  cases turn with
  | sequencer =>
    obtain ⟨req, resp, _, hr, _⟩ := sequencerTurn_refused hl h
    simp [hc] at hr
  | request op => cases h
  | hostRead reg =>
    simp only [agentTurn, hostRead] at h
    split at h <;> cases h
  | busAnswer code rx =>
    simp only [agentTurn] at h
    split at h
    · next hp =>
      obtain ⟨req, resp, hq, hr, hb⟩ := sequencerTurn_refused (s := deliverBusAnswer code rx s) hl h
      cases hr
      exact .inr ⟨code, rx, req, rfl, hp, hq, hb⟩
    · next hp =>
      cases h
      exact .inl ⟨rfl, .inl ⟨code, rx, rfl, by simpa using hp⟩⟩
  | delayDone =>
    simp only [agentTurn] at h
    split at h
    · obtain ⟨req, resp, _, hr, _⟩ := sequencerTurn_refused (s := deliverDelayDone s) hl h
      simp [hc] at hr
    · next hp =>
      cases h
      exact .inl ⟨rfl, .inr (.inl ⟨rfl, by simpa using hp⟩)⟩
  | lateAnswer =>
    simp only [agentTurn, lateAnswer] at h
    split at h
    · next ha =>
      cases h
      exact .inl ⟨rfl, .inr (.inr ⟨rfl, ha⟩)⟩
    · cases h
  | reset => cases h

/-- Settles O36: the invariant keeps `fsm` legal and the ports clear between events. -/
theorem onlyBreachesAreRefused : Obligations.OnlyBreachesAreRefused := by
  intro s r hi h
  rw [step_of_legal hi.fsmLegal] at h
  obtain hno | ⟨code, rx, req, hn, hp, hq, hb⟩ :=
    agentTurn_refused (s := s.popTurn) hi.fsmLegal hi.portsClear.1 h
  · exact .inl hno
  · obtain ⟨rfl, hlen⟩ | rfl := hb
    · exact .inr (.inl ⟨rfl, hp, req, rx, hn, hq, hlen⟩)
    · exact .inr (.inr ⟨rfl, hp, rx, hn⟩)

/-! ### Faults -/

/-- A host read finds no reserved code in a state of the invariant: it can only miss a reading (R41). -/
theorem readRegister_error {reg : HostReg} {s : State} {f : Fault} (hr : s.result ≠ .reserved)
    (hc : s.errCause ≠ .reserved) (h : readRegister reg s = .error f) :
    f = .noReading ∧ s.hasReading = false ∧ (reg = .temp ∨ reg = .hum) := by
  have float (hreg : reg = .temp ∨ reg = .hum) : f = .noReading ∧ s.hasReading = false := by
    obtain ⟨hno, hyes⟩ := readRegister_float (s := s) hreg
    cases hv : s.hasReading with
    | false => exact ⟨by simpa [h] using hno hv, rfl⟩
    | true => obtain ⟨v, hv⟩ := hyes hv; simp [h] at hv
  cases reg with
  | busy => cases h
  | done => cases h
  | result => simp [readRegister, hr] at h
  | errCause => simp [readRegister, hc] at h
  | temp => exact ⟨(float (.inl rfl)).1, (float (.inl rfl)).2, .inl rfl⟩
  | hum => exact ⟨(float (.inr rfl)).1, (float (.inr rfl)).2, .inr rfl⟩

/-- Of all the turns only a host read can fault within the rules. -/
theorem agentTurn_fault {turn : Turn} {s : State} {f : Fault} (hl : s.fsm.code.toNat < 12)
    (h : agentTurn turn s = .fault f) : ∃ reg, turn = .hostRead reg ∧ readRegister reg s = .error f := by
  cases turn with
  | sequencer => exact absurd h (sequencerTurn_ne_fault hl f)
  | request op => cases h
  | hostRead reg =>
    simp only [agentTurn, hostRead] at h
    split at h
    · cases h
    · next g hg => cases h; exact ⟨reg, rfl, hg⟩
  | busAnswer code rx =>
    simp only [agentTurn] at h
    split at h
    · exact absurd h (sequencerTurn_ne_fault (s := deliverBusAnswer code rx s) hl f)
    · cases h
  | delayDone =>
    simp only [agentTurn] at h
    split at h
    · exact absurd h (sequencerTurn_ne_fault (s := deliverDelayDone s) hl f)
    · cases h
  | lateAnswer =>
    simp only [agentTurn, lateAnswer] at h
    split at h <;> cases h
  | reset => cases h

/-- A read of a register without a reading faults (R41). -/
theorem step_hostRead_fault {s : State} {reg : HostReg} (hl : s.fsm.code.toNat < 12)
    (hv : s.hasReading = false) (hreg : reg = .temp ∨ reg = .hum) (hn : s.nextTurn = .hostRead reg) :
    step s = .fault .noReading := by
  have hread := (readRegister_float (s := s.popTurn) hreg).1 hv
  rw [step_of_legal hl, hn]
  simp [agentTurn, hostRead, hread]

/-- Settles O35: only a host read faults, and the invariant rules out every cause of it but a reading that is
not there. -/
theorem onlyFaultIsAReadingWithoutValue : Obligations.OnlyFaultIsAReadingWithoutValue := by
  refine ⟨fun s hl hv hn => ?_, fun s f hi h => ?_⟩
  · obtain hn | hn := hn
    · exact step_hostRead_fault hl hv (.inl rfl) hn
    · exact step_hostRead_fault hl hv (.inr rfl) hn
  · rw [step_of_legal hi.fsmLegal] at h
    obtain ⟨reg, hn, he⟩ := agentTurn_fault (s := s.popTurn) hi.fsmLegal h
    obtain ⟨rfl, hv, hreg⟩ := readRegister_error (s := s.popTurn) hi.resultLegal hi.causeLegal he
    refine ⟨rfl, hv, ?_⟩
    obtain rfl | rfl := hreg
    · exact .inl hn
    · exact .inr hn

/-! ### The host -/

/-- Settles O34: a read appends to the record, and a request presented goes to the end of the port. -/
theorem hostReadsAndWrites : Obligations.HostReadsAndWrites := by
  refine ⟨fun s reg v hl hn hv => ?_, fun s op hl hn => ?_, fun s => ?_⟩
  · have hread : readRegister reg s.popTurn = .ok v := hv ▸ (by cases reg <;> rfl)
    rw [step_of_legal hl, hn]
    simp only [agentTurn, hostRead, hread]
    rfl
  · refine ⟨s.requests ++ [op], ?_, fun hr => by rw [hr]; rfl⟩
    rw [step_of_legal hl, hn]
    rfl
  · refine ⟨by simp [readRegister, State.busy, bne, beq_eq_decide], rfl, fun h => if_neg h, fun h => if_neg h,
      fun h => ⟨fun b => ?_, fun b => ?_⟩⟩
    all_goals
      constructor <;> intro hb <;> simp [readRegister, readRegister.readFloat, h, hb]

/-- Settles O31: by evaluation of the one state after reset. -/
theorem resetValues : Obligations.ResetValues := by
  unfold Obligations.ResetValues
  decide

/-! ### What a step runs -/

/-- Where an instruction is fetched, `fsm` holds a code that has a meaning. -/
theorem legal_of_fetch {s : State} {i : Instr} (h : fetch s = .instr i) : s.fsm.code.toNat < 12 := by
  cases hf : s.fsm with
  | reserved low => simp [fetch, hf] at h
  | _ => simp [Fsm.code]

/-- The Sequencer's turn runs the instruction fetched. -/
theorem sequencerTurn_of_fetch {s : State} {i : Instr} (h : fetch s = .instr i) :
    sequencerTurn s = exec i s := by
  simp only [sequencerTurn, h]

theorem step_own {s : State} {i : Instr} (h : fetch s = .instr i) (hn : s.nextTurn = .sequencer) :
    step s = exec i s.popTurn := by
  rw [step_of_legal (legal_of_fetch h), hn]
  exact sequencerTurn_of_fetch (s := s.popTurn) h

theorem fetch_idle {s : State} {op : OpCode} {rest : List OpCode} (hf : s.fsm = .idle)
    (hr : s.requests = op :: rest) : fetch s = .instr (decodeHostOp op) := by
  simp [fetch, hf, hr]

/-- In IDLE with no request the Sequencer's turn changes nothing (R262). -/
theorem step_idle_no_request {s : State} (hf : s.fsm = .idle) (hr : s.requests = [])
    (hn : s.nextTurn = .sequencer) : step s = .next s.popTurn := by
  rw [step_of_legal (by rw [hf]; decide), hn]
  simp [agentTurn, sequencerTurn, fetch, hf, hr]

/-- Settles O6: `fetch` looks at no port but the requests, so an answer delivered does not change
the instruction. -/
theorem stepRunsFetchedInstruction : Obligations.StepRunsFetchedInstruction := by
  refine ⟨fun s i hi => ⟨step_own hi, fun code rx hn hp => ?_, fun hn hp => ?_⟩,
    fun s op rest hf hr => ⟨rfl, fetch_idle hf hr⟩, fun s r hq htx => ?_,
    fun s hf hr hn => step_idle_no_request hf hr hn, fun s low hf hn => ?_⟩
  · rw [step_of_legal (legal_of_fetch hi), hn]
    simp only [agentTurn, popTurn_busPending, hp, if_true]
    exact sequencerTurn_of_fetch (s := deliverBusAnswer code rx s.popTurn) hi
  · rw [step_of_legal (legal_of_fetch hi), hn]
    simp only [agentTurn, popTurn_delayPending, hp, if_true]
    exact sequencerTurn_of_fetch (s := deliverDelayDone s.popTurn) hi
  · cases hf : s.fsm <;> rw [hf] at hq <;> cases hq
    case iReset.refl => exact ⟨.devSoftReset, by simp [fetch, hf], rfl⟩
    case iStat1.refl => exact ⟨.devReadStatus, by simp [fetch, hf], rfl⟩
    case iCal.refl => exact ⟨.devCalibrate, by simp [fetch, hf], rfl⟩
    case iStat2.refl => exact ⟨.devReadStatus, by simp [fetch, hf], rfl⟩
    case mTrig.refl => exact ⟨.devTrigger, by simp [fetch, hf], rfl⟩
    case mRead.refl => exact absurd rfl htx
  · rw [step_eq]
    exact takeTurn_of_reserved (s := s.popTurn) (by simpa [hf] using reserved_code low) hn

/-- Settles O9: by the IDLE rows of the two meanings. -/
theorem operationsAccepted : Obligations.OperationsAccepted := by
  intro s hf
  constructor
  · simp [exec, execInit, hf, acceptInto, accept]
  · simp [exec, execMeasure, hf, acceptInto, accept]

/-- Settles O11: in each state of the other operation, and for a reserved code in every state but
IDLE, the request waits. -/
theorem runningOperationKeepsRequestWaiting : Obligations.RunningOperationKeepsRequestWaiting := by
  intro s
  refine ⟨fun hm => ?_, fun hm => ?_, fun hn hl => ?_⟩
  · simp only [List.mem_cons, List.not_mem_nil, or_false] at hm
    obtain hf | hf | hf | hf := hm <;> simp [exec, execInit, hf]
  · simp only [List.mem_cons, List.not_mem_nil, or_false] at hm
    obtain hf | hf | hf | hf | hf | hf | hf := hm <;> simp [exec, execMeasure, hf]
  · have waits (op : OpCode) : illegalRequest op s = .next s := by
      unfold illegalRequest
      split
      · next hf => exact absurd hf hn
      · next low hf => exact absurd (reserved_code low) (by rw [← hf]; omega)
      · rfl
    exact ⟨waits _, waits _⟩

/-! ### The host request port (R22) -/

/-- The Sequencer's turn in IDLE accepts the request at the port. -/
theorem step_accept {s : State} {op : OpCode} {rest : List OpCode} (hf : s.fsm = .idle)
    (hr : s.requests = op :: rest) (hn : s.nextTurn = .sequencer) :
    step s = .next (acceptRequest op s.popTurn) := by
  rw [step_own (fetch_idle hf hr) hn]
  exact exec_hostOp_of_idle op hf

/-- A request is accepted only in IDLE, in the Sequencer's turn. -/
theorem step_accepts {s t : State} {op : OpCode} (h : step s = .next t) (ha : .accept op ∈ s.eventsSince t) :
    s.fsm = .idle ∧ s.nextTurn = .sequencer := by
  obtain ⟨u, hd, hs⟩ | hs | ⟨reg, v, hs⟩ | hs := step_shows h
  · have hf : s.fsm = .idle := by
      rw [← hd.fsm]
      generalize s.eventsSince t = events at hs ha
      cases hs with
      | accept op hf => exact hf
      | acceptIllegal op hf => exact hf
      | _ => simp at ha
    obtain ⟨hb, hy⟩ := not_pending_of_idle hf
    cases hd with
    | own hn => exact ⟨hf, hn⟩
    | bus _ _ _ hp => rw [hb] at hp; cases hp
    | delay _ hp => rw [hy] at hp; cases hp
  all_goals simp [hs] at ha

/-- Settles O8: in IDLE the step is the Accept of the request at the port, and no other event or turn
shows an Accept. -/
theorem hostRequestPort : Obligations.HostRequestPort := by
  refine ⟨fun s op rest hf hr hn => ?_, fun s t op h ha => ?_, fun s t h hf => ?_,
    fun s => by simp [State.reqReady]⟩
  · refine ⟨_, step_accept hf hr hn, by simp [acceptRequest_requests, hr],
      (accept_mem_acceptRequest (popTurn_trace s)).2 rfl, ?_, ?_, ?_⟩
    · rintro rfl
      simp [acceptRequest, acceptInto, accept, hr]
    · rintro rfl
      simp [acceptRequest, acceptInto, accept, hr]
    · rintro (rfl | rfl) <;> simp [acceptRequest, acceptIllegal, complete, accept, hr]
  · obtain ⟨hf, hn⟩ := step_accepts h ha
    refine ⟨hf, ?_⟩
    cases hr : s.requests with
    | nil =>
      rw [step_idle_no_request hf hr hn] at h
      cases h
      simp [State.eventsSince] at ha
    | cons op' rest =>
      rw [step_accept hf hr hn] at h
      cases h
      rw [(accept_mem_acceptRequest (popTurn_trace s)).1 ha, acceptRequest_requests, popTurn_requests, hr]
      rfl
  · obtain ⟨u, hd, he⟩ | ⟨_, _, rfl⟩ | ⟨op, hn, rfl⟩ | ⟨reg, v, _, _, rfl⟩ | ⟨_, _, rfl⟩ | ⟨_, rfl⟩ :=
      step_cases h
    · exact .inl ((he.seqFrame.requests (hd.fsm ▸ hf)).trans hd.requests)
    · exact .inl rfl
    · exact .inr ⟨op, hn, rfl⟩
    · exact .inl rfl
    · exact .inl rfl
    · exact .inl rfl

end Sys2Proof.Machine
end

section
/-! SUPPORT. The words of the opcode table: what decodes re-encodes to the word read, and a placed word is the
instruction that the next step runs (30_encoding.md R80, R88; notes/assumptions/9.md). -/

namespace Sys2Proof.Machine

/-! ### Decoding -/

theorem decodePair_ok {isFirst isSecond : Bool} {first second i : Instr}
    (h : decodePair isFirst isSecond first second = .ok i) :
    (isFirst = true ∧ i = first) ∨ (isSecond = true ∧ i = second) := by
  cases isFirst <;> cases isSecond <;> cases h
  · exact .inr ⟨rfl, rfl⟩
  · exact .inl ⟨rfl, rfl⟩

theorem encode_decodeHostOp (p : Params) (op : OpCode) : encode p (decodeHostOp op) = .hostOp op := by
  obtain rfl | rfl | rfl | rfl := opCode_cases op <;> rfl

/-- Bytes that decode to a wire command are its parameter's, in send order (R88). -/
theorem encode_of_decodeWire {p : Params} {bytes : List Byte} {i : Instr} (h : decodeWire p bytes = .ok i) :
    encode p i = .wire bytes := by
  unfold decodeWire at h
  split at h
  · obtain ⟨hb, rfl⟩ | ⟨hb, rfl⟩ := decodePair_ok h <;> rw [eq_of_beq hb] <;> rfl
  · obtain ⟨hb, rfl⟩ | ⟨hb, rfl⟩ := decodePair_ok h <;> simp [encode, ← eq_of_beq hb, commandBytes]
  · cases h

/-- What decodes re-encodes to the word that was read. -/
theorem encode_of_decode {p : Params} {c : Code} {i : Instr} (h : decode p c = .ok i) : encode p i = c := by
  cases c with
  | hostOp op => cases h; exact encode_decodeHostOp p op
  | wire bytes => exact encode_of_decodeWire h

theorem decode_of_decodeTableWord {nbits w : Nat} {i : Instr} (h : decodeTableWord nbits w = some i) :
    decode defaultParams (codeOfTableWord nbits w) = .ok i := by
  unfold decodeTableWord at h
  split at h
  · next hd => cases h; exact hd
  · cases h

/-! ### Placing -/

/-- The state in which a placed instruction runs: it is the one fetched, it answers, its code word is the
default one, and only `fsm`, `pend`, the request and the parameters can differ from `s`. -/
structure Placed (i : Instr) (s t : State) : Prop where
  fetched : fetch t = .instr i
  answers : ∃ u, exec i t = .next u
  encoded : encode t.params i = encode defaultParams i
  rest : t = { s with fsm := t.fsm, pend := false, requests := t.requests, params := t.params }

theorem giveTurn_nextTurn (s : State) : (giveTurn s).nextTurn = .sequencer := by
  cases hs : s.schedule <;> simp [giveTurn, State.nextTurn, hs]

theorem giveTurn_popTurn (s : State) : (giveTurn s).popTurn = s := by
  cases hs : s.schedule <;> simp only [giveTurn, State.popTurn, hs] <;> cases s <;> cases hs <;> rfl

theorem placeInstr_nextTurn (i : Instr) (s : State) : (placeInstr i s).nextTurn = .sequencer := by
  cases i <;> exact giveTurn_nextTurn s

theorem placeRequest_popTurn (op : OpCode) (s : State) :
    (placeRequest op s).popTurn = { s with fsm := .idle, pend := false, requests := op :: s.requests } :=
  congrArg (fun u : State => { u with fsm := .idle, pend := false, requests := op :: s.requests })
    (giveTurn_popTurn s)

theorem placeCommand_popTurn (f : Fsm) (p : Params) (s : State) :
    (placeCommand f p s).popTurn = { s with fsm := f, pend := false, params := p } :=
  congrArg (fun u : State => { u with fsm := f, pend := false, params := p }) (giveTurn_popTurn s)

/-- A request placed in an idle block is accepted next. -/
theorem placeRequest_placed (op : OpCode) (s : State) :
    Placed (decodeHostOp op) s (placeRequest op s).popTurn := by
  rw [placeRequest_popTurn]
  exact {
    fetched := fetch_idle rfl rfl
    answers := ⟨_, exec_hostOp_of_idle op rfl⟩
    encoded := by rw [encode_decodeHostOp, encode_decodeHostOp]
    rest := rfl }

/-- A wire command placed in the state that sends it is issued next. -/
theorem placeCommand_placed {i : Instr} {f : Fsm} {p : Params} {req : BusReq} (s : State)
    (hi : fetch (placeCommand f p s) = .instr i) (hq : portRequest p f = some (.bus req))
    (he : encode p i = encode defaultParams i) : Placed i s (placeCommand f p s).popTurn := by
  have hi' : fetch (placeCommand f p s).popTurn = .instr i := hi
  rw [placeCommand_popTurn] at hi' ⊢
  obtain ⟨onOk, hx⟩ := sequencerTurn_bus (s := { s with fsm := f, pend := false, params := p }) hq
  exact {
    fetched := hi'
    answers := ⟨_, (sequencerTurn_of_fetch hi').symm.trans (hx.trans (busState_issue rfl))⟩
    encoded := he
    rest := rfl }

theorem placeInstr_placed (i : Instr) (s : State) : Placed i s (placeInstr i s).popTurn := by
  cases i with
  | init => exact placeRequest_placed 0b01#2 s
  | measure => exact placeRequest_placed 0b10#2 s
  | illegal00 => exact placeRequest_placed 0b00#2 s
  | illegal11 => exact placeRequest_placed 0b11#2 s
  | devSoftReset => exact placeCommand_placed s rfl rfl rfl
  | devReadStatus => exact placeCommand_placed s rfl rfl rfl
  | devCalibrate => exact placeCommand_placed s rfl rfl rfl
  | devTrigger => exact placeCommand_placed s rfl rfl rfl

/-- Settles O7: the placed instruction is the one fetched in the Sequencer's turn, and decoding its table word
fixes its code word. -/
theorem placedWordRunsNext : Obligations.PlacedWordRunsNext := by
  intro s nbits w i h
  have hw : s.withFetchWord nbits w = placeInstr i s := by simp only [State.withFetchWord, h]
  have hplaced := placeInstr_placed i s
  have hstep : step (placeInstr i s) = exec i (placeInstr i s).popTurn :=
    step_own hplaced.fetched (placeInstr_nextTurn i s)
  rw [hw]
  refine ⟨_, rfl, hplaced.fetched, hstep, hplaced.answers,
    hplaced.encoded.trans (encode_of_decode (decode_of_decodeTableWord h)), ?_⟩
  rw [hplaced.rest]
  simp

end Sys2Proof.Machine
end

section
/-! SUPPORT. The bus transactions, the record of the ports, and where a meaning stops (20_memory.md R62, R70;
30_encoding.md R94; notes/assumptions/5.md, 8.md). -/

namespace Sys2Proof.Machine

/-! ### The bus transactions (R62) -/

/-- A step issues a bus request only as the one of the state that `fsm` names (R30). -/
theorem portRequest_of_busRequest_shown {s t : State} {r : BusReq} (h : step s = .next t)
    (hr : .request (.bus r) ∈ s.eventsSince t) : portRequest s.params s.fsm = some (.bus r) := by
  obtain ⟨u, hd, hs⟩ | hs | ⟨reg, v, hs⟩ | hs := step_shows h
  · generalize s.eventsSince t = events at hs hr
    cases hs with
    | request r' _ hq =>
      obtain rfl : PortRequest.bus r = r' := by simpa using hr
      rw [← hd.params, ← hd.fsm, hq]
    | _ => simp at hr
  all_goals simp [hs] at hr

theorem DelaySucc.succ_ne_iCal {f g : Fsm} (h : DelaySucc f g) : g ≠ .iCal := by cases h <;> decide

theorem WriteSucc.succ_ne_iCal {f g : Fsm} (h : WriteSucc f g) : g ≠ .iCal := by cases h <;> decide

/-- The block enters I_CAL only by the Ok status response of I_STAT1 that has CAL = 0 (R114). -/
theorem SeqEvent.enters_iCal {s t : State} (h : SeqEvent s t) (ht : t.fsm = .iCal) (hs : s.fsm ≠ .iCal) :
    s.fsm = .iStat1 ∧ ∃ b : Byte, t.trace = s.trace ++ [.busAnswer .ok [b]] ∧ b[3] = false := by
  cases h with
  | acceptInto op first _ ho => obtain ⟨_, rfl⟩ | ⟨_, rfl⟩ := ho <;> cases ht
  | acceptIllegal op => cases ht
  | issue r => exact absurd ht hs
  | delayDone nextFsm _ _ hsucc => exact absurd ht hsucc.succ_ne_iCal
  | aborted r code rx _ _ _ hc => rw [abort_of_failed hc] at ht; cases ht
  | written rx nextFsm _ _ _ hsucc => exact absurd ht hsucc.succ_ne_iCal
  | stat1 rx hf _ _ hl =>
    obtain ⟨b, rfl⟩ := List.length_eq_one_iff.1 hl
    have hcal : calFlag b = false := by simpa [onStat1, statusOf] using ht
    exact ⟨hf, b, rfl, hcal⟩
  | stat2 rx => rw [(onStat2_completed rx s).fsm] at ht; cases ht
  | frameRead rx => cases ht
  | evaluated hf => rw [(evaluate_completed hf).fsm] at ht; cases ht

/-- Settles O37: a request shown is the one of the state that issues it, and of all the turns only the event of
I_STAT1 leads into I_CAL. -/
theorem onlyTheseTransactions : Obligations.OnlyTheseTransactions := by
  refine ⟨fun s t r h hr => ?_, fun s t h ht hs => ?_⟩
  · have hq := portRequest_of_busRequest_shown h hr
    cases hf : s.fsm <;> rw [hf] at hq <;> cases hq
    case iReset.refl => exact .inl ⟨rfl, rfl⟩
    case iStat1.refl => exact .inr (.inl ⟨.inl rfl, rfl⟩)
    case iCal.refl => exact .inr (.inr (.inl ⟨rfl, rfl⟩))
    case iStat2.refl => exact .inr (.inl ⟨.inr rfl, rfl⟩)
    case mTrig.refl => exact .inr (.inr (.inr (.inl ⟨rfl, rfl⟩)))
    case mRead.refl => exact .inr (.inr (.inr (.inr ⟨rfl, rfl⟩)))
  · obtain ⟨u, hd, he⟩ | ⟨_, _, rfl⟩ | ⟨op, _, rfl⟩ | ⟨reg, v, _, _, rfl⟩ | ⟨_, _, rfl⟩ | ⟨_, rfl⟩ :=
      step_cases h
    · obtain ⟨hf, b, htrace, hb⟩ := he.enters_iCal ht (hd.fsm ▸ hs)
      refine ⟨hd.fsm ▸ hf, b, [], ?_, hb⟩
      rw [hd.eventsSince, eventsSince_of_append htrace]
      exact List.mem_singleton.2 rfl
    · exact absurd ht hs
    · exact absurd ht hs
    · exact absurd ht hs
    · exact absurd ht hs
    · cases ht

/-! ### The record of the ports (R70) -/

/-- Every agent's turn only appends to the record. -/
theorem step_trace {s t : State} (h : step s = .next t) : ∃ events, t.trace = s.trace ++ events := by
  obtain ⟨u, hd, he⟩ | ⟨_, _, rfl⟩ | ⟨op, _, rfl⟩ | ⟨reg, v, _, _, rfl⟩ | ⟨_, _, rfl⟩ | ⟨_, rfl⟩ :=
    step_cases h
  · exact hd.trace ▸ he.trace
  · exact ⟨[], (List.append_nil _).symm⟩
  · exact ⟨[], (List.append_nil _).symm⟩
  · exact ⟨[.hostRead reg v], rfl⟩
  · exact ⟨[], (List.append_nil _).symm⟩
  · exact ⟨[.reset], rfl⟩

/-- Settles O39: what a step appends to the record is what `eventsSince` reads off it. -/
theorem eventsOnlyAppend : Obligations.EventsOnlyAppend := by
  intro s t h
  obtain ⟨events, ht⟩ := step_trace h
  rw [eventsSince_of_append ht, ht]

/-! ### Where a meaning stops (R62, R94) -/

/-- Every instruction's meaning has its own arm for the codes 1100 to 1111 (R94). -/
theorem exec_of_reserved (i : Instr) {s : State} {low : BitVec 2} (hf : s.fsm = .reserved low) :
    exec i s = .fault .fsmReserved := by
  cases i with
  | init => simp [exec, execInit, hf]
  | measure => simp [exec, execMeasure, hf]
  | illegal00 => simp [exec, execIllegal00, illegalRequest, hf]
  | illegal11 => simp [exec, execIllegal11, illegalRequest, hf]
  | devSoftReset => simp [exec, execDevSoftReset, hf]
  | devReadStatus => simp [exec, execDevReadStatus, hf]
  | devCalibrate => simp [exec, execDevCalibrate, hf]
  | devTrigger => simp [exec, execDevTrigger, hf]

theorem ne_reserved_of_legal {f : Fsm} (hl : f.code.toNat < 12) (low : BitVec 2) : f ≠ .reserved low := by
  rintro rfl
  exact absurd (reserved_code low) (Nat.not_le.2 hl)

/-- Settles O20: a wire command's meaning has an arm for the states that send it, one for the reserved codes, and
the refusal; the premises rule out the first two. -/
theorem stopsByName : Obligations.StopsByName := by
  refine fun s => ⟨fun i low hf => exec_of_reserved i hf, fun hl => ?_⟩
  have legal := ne_reserved_of_legal hl
  refine ⟨fun hf => ?_, fun hf1 hf2 => ?_, fun hf => ?_, fun hf => ?_⟩
  · change execDevSoftReset s = _
    unfold execDevSoftReset
    split <;> simp_all
  · change execDevReadStatus s = _
    unfold execDevReadStatus
    split <;> simp_all
  · change execDevCalibrate s = _
    unfold execDevCalibrate
    split <;> simp_all
  · change execDevTrigger s = _
    unfold execDevTrigger
    split <;> simp_all

end Sys2Proof.Machine
end

section
/-! SUPPORT. Code words: what the encoder gives decodes back, and the codes of the states, the ports and the
registers (30_encoding.md R80, R81, R88 to R92, R94, R95; notes/assumptions/4.md). -/

namespace Sys2Proof.Machine

/-! ### Decoding -/

/-- Bytes that are the first command of their length are taken for it unless they are the second too. -/
theorem decodePair_first_iff {isSecond : Bool} {first second : Instr} :
    decodePair true isSecond first second = .ok first ↔ isSecond = false := by
  cases isSecond <;> simp [decodePair]

/-- Bytes that are the second command of their length are taken for it unless they are the first too. -/
theorem decodePair_second_iff {isFirst : Bool} {first second : Instr} :
    decodePair isFirst true first second = .ok second ↔ isFirst = false := by
  cases isFirst <;> simp [decodePair]

theorem decodeWire_byte (p : Params) (b : Byte) :
    decodeWire p [b]
      = decodePair (b == p.cmdSoftReset) (b == p.cmdReadStatus) .devSoftReset .devReadStatus := rfl

theorem decodeWire_commandBytes (p : Params) (c : Command3) :
    decodeWire p (commandBytes c)
      = decodePair (c == p.cmdCalibrate) (c == p.cmdTrigger) .devCalibrate .devTrigger := rfl

/-- An instruction's code word decodes back to it exactly when no other command has the same bytes. -/
theorem decode_encode_iff (p : Params) (i : Instr) :
    decode p (encode p i) = .ok i ↔ i.WellFormed p = true := by
  cases i with
  | init => exact iff_of_true rfl rfl
  | measure => exact iff_of_true rfl rfl
  | illegal00 => exact iff_of_true rfl rfl
  | illegal11 => exact iff_of_true rfl rfl
  | devSoftReset =>
    rw [encode, decode, decodeWire_byte, beq_self_eq_true, decodePair_first_iff]
    simp [Instr.WellFormed]
  | devReadStatus =>
    rw [encode, decode, decodeWire_byte, beq_self_eq_true, decodePair_second_iff]
    simp [Instr.WellFormed, eq_comm (a := p.cmdSoftReset)]
  | devCalibrate =>
    rw [encode, decode, decodeWire_commandBytes, beq_self_eq_true, decodePair_first_iff]
    simp [Instr.WellFormed]
  | devTrigger =>
    rw [encode, decode, decodeWire_commandBytes, beq_self_eq_true, decodePair_second_iff]
    simp [Instr.WellFormed, eq_comm (a := p.cmdCalibrate)]

/-- Only wire words can have a length outside R95, and the decoder has an arm for each length inside. -/
theorem decode_of_lengthOk_false (p : Params) {c : Code} (h : c.lengthOk = false) :
    decode p c = .error .wireLength := by
  cases c with
  | hostOp op => cases h
  | wire bytes =>
    change decodeWire p bytes = _
    unfold decodeWire
    split
    · cases h
    · cases h
    · rfl

/-- Settles O1: the round trip from instructions constructor by constructor, the one from words by what
re-encodes, and the rejection by the length of the word. -/
theorem decodeEncodeRoundTrip : Obligations.DecodeEncodeRoundTrip :=
  ⟨decode_encode_iff, fun _ _ _ h => encode_of_decode h, fun p _ h => decode_of_lengthOk_false p h⟩

/-- Settles O2: a `req_op` decodes whatever the parameters are, and re-encodes to both its bits. -/
theorem hostOpDecoderIsTotal : Obligations.HostOpDecoderIsTotal :=
  ⟨fun p op => ⟨rfl, encode_decodeHostOp p op⟩, rfl, rfl, rfl, rfl⟩

/-- Settles O3, by evaluating the decoder on each word. -/
theorem tableWordsDecode : Obligations.TableWordsDecode := by
  unfold Obligations.TableWordsDecode
  decide

/-! ### The state codes (R92, R94) -/

/-- The state that a 4-bit code stands for: the inverse of `Fsm.code`. -/
def fsmOfCode (c : BitVec 4) : Fsm :=
  match c.toNat with
  | 0 => .idle
  | 1 => .iPwrWait
  | 2 => .iReset
  | 3 => .iResetWait
  | 4 => .iStat1
  | 5 => .iCal
  | 6 => .iCalWait
  | 7 => .iStat2
  | 8 => .mTrig
  | 9 => .mWait
  | 10 => .mRead
  | 11 => .mEval
  | _ => .reserved (c.setWidth 2)

theorem fsmOfCode_code (f : Fsm) : fsmOfCode f.code = f := by
  cases f with
  | reserved low => revert low; decide
  | _ => rfl

theorem code_fsmOfCode (c : BitVec 4) : (fsmOfCode c).code = c := by
  revert c; decide

theorem fsmCode_bijective : Function.Bijective Fsm.code :=
  Function.bijective_iff_has_inverse.2 ⟨fsmOfCode, fsmOfCode_code, code_fsmOfCode⟩

/-- Settles O4: the table of R92 row by row, and a code names one state because `Fsm.code` has an inverse. -/
theorem stateCodesAndRequests : Obligations.StateCodesAndRequests :=
  ⟨fun _ => rfl, fsmCode_bijective.existsUnique⟩

/-! ### The port and register codes (R89, R90, R91) -/

theorem busKind_code_ne_11 (k : BusKind) : k.code ≠ 0b11#2 := by
  cases k <;> decide

/-- Settles O5: the tables of R89, R90 and R91 row by row, and the bus kind's unused code. -/
theorem portAndRegisterCodes : Obligations.PortAndRegisterCodes :=
  ⟨rfl, busKind_code_ne_11, rfl, rfl⟩

end Sys2Proof.Machine
end

section
/-! SUPPORT. The status bits that the block reads, and the completions they lead to (30_encoding.md R83, R91;
40_init.md R117, R118; 41_measure.md R144; 60_exceptions.md R230, R237). -/

namespace Sys2Proof.Machine

/-! ### The status byte -/

/-- `StatusCheck` by the two bits it reads, BUSY before CAL (R170). -/
theorem statusCheck_cases (b : Byte) :
    (b[7] = true ∧ statusCheck b = .sensorBusy)
    ∨ (b[7] = false ∧ b[3] = false ∧ statusCheck b = .notCalibrated)
    ∨ (b[7] = false ∧ b[3] = true ∧ statusCheck b = .none) := by
  unfold statusCheck busyFlag calFlag
  cases b[7] <;> cases b[3] <;> simp

/-- A status byte passes the check only with BUSY = 0 and CAL = 1. -/
theorem flags_of_statusCheck_none {b : Byte} (h : statusCheck b = .none) : b[7] = false ∧ b[3] = true := by
  obtain ⟨_, hs⟩ | ⟨_, _, hs⟩ | ⟨hbusy, hcal, _⟩ := statusCheck_cases b
  · simp [hs] at h
  · simp [hs] at h
  · exact ⟨hbusy, hcal⟩

theorem statusCheck_congr {a b : Byte} (h7 : a[7] = b[7]) (h3 : a[3] = b[3]) :
    statusCheck a = statusCheck b := by
  have hbusy : busyFlag a = busyFlag b := h7
  have hcal : calFlag a = calFlag b := h3
  simp only [statusCheck, hbusy, hcal]

/-! ### What the INIT reads make of their byte (R118) -/

/-- `s` without what a status read may show of its byte: `st` and the record of the ports. -/
def State.withoutStatus (s : State) : State := { s with st := 0#8, trace := [] }

/-- The state that the Ok handler of a status read gets: the answer `b` delivered and taken. -/
def statusRead (b : Byte) (s : State) : State := takeBusAnswer .ok [b] (deliverBusAnswer .ok [b] s)

theorem statusRead_withoutStatus (b : Byte) (s : State) :
    (statusRead b s).withoutStatus = { s with pend := false, busResp := none }.withoutStatus := rfl

theorem onStat1_withoutStatus (b : Byte) (s : State) :
    (onStat1 [b] s).withoutStatus
      = { s.withoutStatus with fsm := if calFlag b then .iCalWait else .iCal } := rfl

theorem onStat2_withoutStatus (b : Byte) (s : State) :
    (onStat2 [b] s).withoutStatus
      = (if calFlag b then complete .ok .none none s.withoutStatus
          else complete .err .calibrationFailure none s.withoutStatus).withoutStatus := by
  obtain ⟨hc, h⟩ | ⟨hc, h⟩ := onStat2_cases [b] s
  · rw [h, if_pos (show calFlag b = true from hc)]; rfl
  · rw [h, if_neg (Bool.eq_false_iff.1 (show calFlag b = false from hc))]; rfl

/-- In I_STAT1 the Ok answer `b` to the outstanding read is handled by R114. -/
theorem exec_devReadStatus_stat1 {s : State} (hf : s.fsm = .iStat1) (hp : s.pend = true) (b : Byte) :
    exec .devReadStatus (deliverBusAnswer .ok [b] s) = .next (onStat1 [b] (statusRead b s)) := by
  have he : exec .devReadStatus (deliverBusAnswer .ok [b] s) = stateIStat1 (deliverBusAnswer .ok [b] s) := by
    simp [exec, execDevReadStatus, hf]
  exact he.trans (busState_ok hp rfl rfl)

/-- In I_STAT2 the Ok answer `b` to the outstanding read is handled by R117. -/
theorem exec_devReadStatus_stat2 {s : State} (hf : s.fsm = .iStat2) (hp : s.pend = true) (b : Byte) :
    exec .devReadStatus (deliverBusAnswer .ok [b] s) = .next (onStat2 [b] (statusRead b s)) := by
  have he : exec .devReadStatus (deliverBusAnswer .ok [b] s) = stateIStat2 (deliverBusAnswer .ok [b] s) := by
    simp [exec, execDevReadStatus, hf]
  exact he.trans (busState_ok hp rfl rfl)

/-- Settles O42: the handlers of both status reads branch on CAL alone, and keep the rest of the byte in `st` and
the record only. -/
theorem onlyTwoStatusBitsMatter : Obligations.OnlyTwoStatusBitsMatter := by
  refine ⟨fun a b => statusCheck_congr, fun s t u a b hf hp hab ht hu => ?_⟩
  have hcal : calFlag a = calFlag b := hab
  change t.withoutStatus = u.withoutStatus
  obtain hf | hf := hf
  · obtain rfl := Host.Outcome.next.inj ((exec_devReadStatus_stat1 hf hp a).symm.trans ht)
    obtain rfl := Host.Outcome.next.inj ((exec_devReadStatus_stat1 hf hp b).symm.trans hu)
    simp only [onStat1_withoutStatus, statusRead_withoutStatus, hcal]
  · obtain rfl := Host.Outcome.next.inj ((exec_devReadStatus_stat2 hf hp a).symm.trans ht)
    obtain rfl := Host.Outcome.next.inj ((exec_devReadStatus_stat2 hf hp b).symm.trans hu)
    simp only [onStat2_withoutStatus, statusRead_withoutStatus, hcal]

/-! ### The taxonomy of completions (R230, R237) -/

/-- The completions of an event of the block from `s` to `t`, each with its state and its reason: the rows of
R230. -/
inductive Completion (s t : State) : ResultCode → Cause → Prop
  | calibrationFailure (hf : s.fsm = .iStat2) (hcal : t.st[3] = false) : Completion s t .err .calibrationFailure
  | initOk (hf : s.fsm = .iStat2) (hcal : t.st[3] = true) : Completion s t .ok .none
  | sensorBusy (hf : s.fsm = .mEval) (hbusy : s.frame.b0[7] = true) : Completion s t .err .sensorBusy
  | notCalibrated (hf : s.fsm = .mEval) (hbusy : s.frame.b0[7] = false) (hcal : s.frame.b0[3] = false) :
      Completion s t .err .notCalibrated
  | dataCorruption (hf : s.fsm = .mEval) (hbusy : s.frame.b0[7] = false) (hcal : s.frame.b0[3] = true)
      (hcrc : crc8 s.frame.bytes ≠ 0x00#8) : Completion s t .err .dataCorruption
  | measureOk (hf : s.fsm = .mEval) (hbusy : s.frame.b0[7] = false) (hcal : s.frame.b0[3] = true)
      (hcrc : crc8 s.frame.bytes = 0x00#8) : Completion s t .ok .none
  | transport (code : ResultCode) (rx : List Byte) (hc : code = .err ∨ code = .timeout)
      (ha : s.busResp = some ⟨code, rx⟩) : Completion s t code .transport
  | illegalOp (op : OpCode) (ho : op = 0b00#2 ∨ op = 0b11#2) (hf : s.fsm = .idle)
      (ha : .accept op ∈ s.eventsSince t) : Completion s t .err .illegalOp

theorem mem_of_shown {s t : State} {e : PortEvent} {events : List PortEvent}
    (hm : e ∈ s.eventsSince t) (ht : t.trace = s.trace ++ events) : e ∈ events :=
  eventsSince_of_append ht ▸ hm

/-- The second status read completes by CAL of the byte it has put in `st` (R117). -/
theorem onStat2_completion {s : State} {rx : List Byte} {r : ResultCode} {c : Cause} (hf : s.fsm = .iStat2)
    (hm : .complete r c ∈ s.eventsSince (onStat2 rx (takeBusAnswer .ok rx s))) :
    Completion s (onStat2 rx (takeBusAnswer .ok rx s)) r c := by
  obtain ⟨hc, h⟩ | ⟨hc, h⟩ := onStat2_cases rx (takeBusAnswer .ok rx s) <;> rw [h] at hm ⊢
  · obtain ⟨rfl, rfl⟩ : r = .ok ∧ c = .none := by simpa using mem_of_shown hm (List.append_assoc ..)
    exact .initOk hf hc
  · obtain ⟨rfl, rfl⟩ : r = .err ∧ c = .calibrationFailure := by simpa using mem_of_shown hm (List.append_assoc ..)
    exact .calibrationFailure hf hc

/-- The evaluation completes by BUSY, CAL and the CRC of the frame, in that order (R144, R237). -/
theorem evaluate_completion {s : State} {r : ResultCode} {c : Cause} (hf : s.fsm = .mEval)
    (hm : .complete r c ∈ s.eventsSince (evaluate s)) : Completion s (evaluate s) r c := by
  obtain ⟨hc, h⟩ | ⟨hc, hcrc, h⟩ | ⟨hc, hcrc, h⟩ := evaluate_cases s <;> rw [h] at hm ⊢
  · obtain ⟨rfl, rfl⟩ : r = .err ∧ c = statusCheck s.frame.b0 := by simpa using mem_of_shown hm rfl
    obtain ⟨hbusy, hs⟩ | ⟨hbusy, hcal, hs⟩ | ⟨_, _, hs⟩ := statusCheck_cases s.frame.b0
    · rw [hs]; exact .sensorBusy hf hbusy
    · rw [hs]; exact .notCalibrated hf hbusy hcal
    · exact absurd hs hc
  · obtain ⟨rfl, rfl⟩ : r = .err ∧ c = .dataCorruption := by simpa using mem_of_shown hm rfl
    obtain ⟨hbusy, hcal⟩ := flags_of_statusCheck_none hc
    exact .dataCorruption hf hbusy hcal (by simpa [frameCrcOk] using hcrc)
  · obtain ⟨rfl, rfl⟩ : r = .ok ∧ c = .none := by simpa using mem_of_shown hm rfl
    obtain ⟨hbusy, hcal⟩ := flags_of_statusCheck_none hc
    exact .measureOk hf hbusy hcal (eq_of_beq hcrc)

/-- A completion that an event of the block shows is in the taxonomy; the events that lead on show none. -/
theorem SeqEvent.completion {s t : State} {r : ResultCode} {c : Cause} (h : SeqEvent s t)
    (hm : .complete r c ∈ s.eventsSince t) : Completion s t r c := by
  cases h with
  | acceptInto op first => simpa using mem_of_shown hm rfl
  | acceptIllegal op hi ho =>
    have hs := eventsSince_of_append ((acceptIllegal_trace op s).trans (List.append_assoc ..))
    obtain ⟨rfl, rfl⟩ : r = .err ∧ c = .illegalOp := by simpa [hs] using hm
    exact .illegalOp op ho hi (by simp [hs])
  | issue q => simpa using mem_of_shown hm rfl
  | delayDone nextFsm => simpa using mem_of_shown hm rfl
  | aborted q code rx _ _ ha hc =>
    rw [abort_of_failed hc] at hm ⊢
    obtain ⟨rfl, rfl⟩ : r = code ∧ c = .transport := by simpa using mem_of_shown hm (List.append_assoc ..)
    exact .transport _ rx hc ha
  | written rx nextFsm => simpa using mem_of_shown hm rfl
  | stat1 rx => simpa using mem_of_shown hm rfl
  | stat2 rx hf => exact onStat2_completion hf hm
  | frameRead rx => simpa using mem_of_shown hm rfl
  | evaluated hf => exact evaluate_completion hf hm

/-- A step that completes does it in the block's own event: no other agent's turn shows a completion. -/
theorem completion_of_step {s t : State} {r : ResultCode} {c : Cause} (h : step s = .next t)
    (hm : .complete r c ∈ s.eventsSince t) : ∃ u, Delivered s u ∧ Completion u t r c := by
  obtain ⟨u, hd, he⟩ | ⟨_, _, rfl⟩ | ⟨op, _, rfl⟩ | ⟨reg, v, _, _, rfl⟩ | ⟨_, _, rfl⟩ | ⟨_, rfl⟩ :=
    step_cases h
  · exact ⟨u, hd, he.completion (hd.eventsSince t ▸ hm)⟩
  · simpa using mem_of_shown hm (List.append_nil _).symm
  · simpa using mem_of_shown hm (List.append_nil _).symm
  · simpa using mem_of_shown hm rfl
  · simpa using mem_of_shown hm (List.append_nil _).symm
  · simpa using mem_of_shown hm rfl

/-- Settles O24: the block's own event completes by a row of the taxonomy, and with the ports clear before the
step a failed response is the one that this turn delivers. -/
theorem completionsAreTheTaxonomy : Obligations.CompletionsAreTheTaxonomy := by
  intro s t r c hi h hm
  obtain ⟨u, hd, hc⟩ := completion_of_step h hm
  rw [hd.eventsSince, ← hd.fsm, ← hd.frame]
  cases hc with
  | calibrationFailure hf hcal => exact .inl ⟨rfl, rfl, hf, hcal⟩
  | sensorBusy hf hbusy => exact .inr (.inl ⟨rfl, rfl, hf, hbusy⟩)
  | notCalibrated hf hbusy hcal => exact .inr (.inr (.inl ⟨rfl, rfl, hf, hbusy, hcal⟩))
  | dataCorruption hf hbusy hcal hcrc => exact .inr (.inr (.inr (.inl ⟨rfl, rfl, hf, hbusy, hcal, hcrc⟩)))
  | transport code rx hcode ha =>
    obtain ⟨hp, hn⟩ := hd.busResp hi.portsClear.1 ha
    exact .inr (.inr (.inr (.inr (.inl ⟨rfl, hcode, hp, rx, hn⟩))))
  | illegalOp op ho hf ha =>
    have hshown := ho.imp (fun h => h ▸ ha) fun h => h ▸ ha
    exact .inr (.inr (.inr (.inr (.inr (.inl ⟨rfl, rfl, hf, hshown⟩)))))
  | initOk hf hcal => exact .inr (.inr (.inr (.inr (.inr (.inr (.inl ⟨rfl, rfl, hf, hcal⟩))))))
  | measureOk hf hbusy hcal hcrc =>
    exact .inr (.inr (.inr (.inr (.inr (.inr (.inr ⟨rfl, rfl, hf, hbusy, hcal, hcrc⟩))))))

end Sys2Proof.Machine
end

section
/-! SUPPORT. The events of INIT's states, each as the whole next state (40_init.md R111 to R117). -/

namespace Sys2Proof.Machine

/-! ### The state rule that an instruction is in a state -/

theorem exec_init_iPwrWait {s : State} (hf : s.fsm = .iPwrWait) : exec .init s = stateIPwrWait s := by
  simp [exec, execInit, hf]

theorem exec_devSoftReset_iReset {s : State} (hf : s.fsm = .iReset) :
    exec .devSoftReset s = stateIReset s := by
  simp [exec, execDevSoftReset, hf]

theorem exec_init_iResetWait {s : State} (hf : s.fsm = .iResetWait) : exec .init s = stateIResetWait s := by
  simp [exec, execInit, hf]

theorem exec_devReadStatus_iStat1 {s : State} (hf : s.fsm = .iStat1) :
    exec .devReadStatus s = stateIStat1 s := by
  simp [exec, execDevReadStatus, hf]

theorem exec_devCalibrate_iCal {s : State} (hf : s.fsm = .iCal) : exec .devCalibrate s = stateICal s := by
  simp [exec, execDevCalibrate, hf]

theorem exec_init_iCalWait {s : State} (hf : s.fsm = .iCalWait) : exec .init s = stateICalWait s := by
  simp [exec, execInit, hf]

theorem exec_devReadStatus_iStat2 {s : State} (hf : s.fsm = .iStat2) :
    exec .devReadStatus s = stateIStat2 s := by
  simp [exec, execDevReadStatus, hf]

theorem exec_devTrigger_mTrig {s : State} (hf : s.fsm = .mTrig) : exec .devTrigger s = stateMTrig s := by
  simp [exec, execDevTrigger, hf]

theorem exec_measure_mWait {s : State} (hf : s.fsm = .mWait) : exec .measure s = stateMWait s := by
  simp [exec, execMeasure, hf]

/-! ### The events of a delay state and of a bus state, as whole next states -/

/-- An instruction that is a delay state's rule issues the delay, and takes its done (R30). -/
theorem exec_delayState {i : Instr} {ms : Millis} {g : Fsm} {s : State} (he : exec i s = delayState ms g s) :
    (s.pend = false → exec i s = .next { s with pend := true, trace := s.trace ++ [.request (.delay ms)] })
    ∧ (s.pend = true → s.delayDone = true → exec i s = .next { s with
        pend := false, delayDone := false, fsm := g, trace := s.trace ++ [.delayDone] }) := by
  rw [he]
  exact ⟨delayState_issue, delayState_done⟩

section BusRule

variable {i : Instr} {req : BusReq} {onOk : List Byte → State → State} {s : State}

/-- An instruction that is a bus state's rule issues the request (R30). -/
theorem exec_busState_issue (he : exec i s = busState req onOk s) (hp : s.pend = false) :
    exec i s = .next { s with pend := true, trace := s.trace ++ [.request (.bus req)] } :=
  he.trans (busState_issue hp)

/-- An instruction that is a bus state's rule hands an Ok response to the state's handler (R30). -/
theorem exec_busState_ok {rx : List Byte} (he : exec i s = busState req onOk s) (hp : s.pend = true)
    (hr : s.busResp = some ⟨.ok, rx⟩) (hl : rx.length = req.rxLen) :
    exec i s = .next (onOk rx (takeBusAnswer .ok rx s)) :=
  he.trans (busState_ok hp hr hl)

/-- An instruction that is a bus state's rule ends the operation at a failed response (R233). -/
theorem exec_busState_failed (he : exec i s = busState req onOk s) (code : ResultCode) (rx : List Byte)
    (hp : s.pend = true) (hr : s.busResp = some ⟨code, rx⟩) (hc : code = .err ∨ code = .timeout) :
    exec i s = .next { s with
      pend := false, busResp := none, fsm := .idle, done := true, result := code,
      errCause := .transport, trace := s.trace ++ [.busAnswer code rx] ++ [.complete code .transport] } := by
  rw [he, busState_failed hp hr hc, abort_of_failed hc]
  rfl

end BusRule

/-! ### The handlers of the status reads -/

/-- The first status read branches on CAL of its byte (R114). -/
theorem onStat1_singleton (b : Byte) (s : State) :
    onStat1 [b] s = { s with st := b, fsm := if b[3] = false then .iCal else .iCalWait } := by
  change { s with st := b, fsm := if b[3] = true then Fsm.iCalWait else .iCal } = _
  cases b[3] <;> rfl

/-- The second status read completes by CAL of its byte (R117). -/
theorem onStat2_singleton (b : Byte) (s : State) :
    onStat2 [b] s = if b[3] = true then complete .ok .none none { s with st := b }
      else complete .err .calibrationFailure none { s with st := b } := rfl

/-! ### The obligations of the states -/

/-- Settles O12: the four states are the rule of a delay state, each with its own delay and successor. -/
theorem delayStates : Obligations.DelayStates := by
  intro s i f g ms code hm
  simp only [List.mem_cons, List.not_mem_nil, or_false, Prod.mk.injEq] at hm
  obtain ⟨rfl, rfl, rfl, rfl, rfl⟩ | ⟨rfl, rfl, rfl, rfl, rfl⟩ | ⟨rfl, rfl, rfl, rfl, rfl⟩ |
    ⟨rfl, rfl, rfl, rfl, rfl⟩ := hm
  · exact fun hf => ⟨rfl, exec_delayState (exec_init_iPwrWait hf)⟩
  · exact fun hf => ⟨rfl, exec_delayState (exec_init_iResetWait hf)⟩
  · exact fun hf => ⟨rfl, exec_delayState (exec_init_iCalWait hf)⟩
  · exact fun hf => ⟨rfl, exec_delayState (exec_measure_mWait hf)⟩

/-- Settles O13: I_RESET is a bus state whose Ok handler goes to I_RESET_WAIT. -/
theorem softResetState : Obligations.SoftResetState := by
  intro s hf
  have he := exec_devSoftReset_iReset hf
  exact ⟨by rw [hf]; rfl, exec_busState_issue he, fun hp hr => exec_busState_ok he hp hr rfl,
    exec_busState_failed he⟩

/-- Settles O14: I_STAT1 is a bus state whose Ok handler branches on CAL. -/
theorem firstStatusState : Obligations.FirstStatusState := by
  intro s hf
  have he := exec_devReadStatus_iStat1 hf
  refine ⟨by rw [hf]; rfl, exec_busState_issue he, fun b hp hr => ?_, exec_busState_failed he⟩
  rw [exec_busState_ok he hp hr rfl, onStat1_singleton]
  rfl

/-- Settles O16: I_STAT2 is a bus state whose Ok handler completes by CAL. -/
theorem secondStatusState : Obligations.SecondStatusState := by
  intro s hf
  have he := exec_devReadStatus_iStat2 hf
  refine ⟨by rw [hf]; rfl, exec_busState_issue he, fun b hp hr => ?_, exec_busState_failed he⟩
  rw [exec_busState_ok he hp hr rfl, onStat2_singleton]
  exact ⟨fun hb => by rw [hb]; rfl, fun hb => by rw [hb]; rfl⟩

/-! ### The turns of the other agents -/

/-- A turn that is none of the block's own events: it leaves `fsm` or resets it, and shows no event of an
operation (R20, R260). -/
structure OtherTurn (s t : State) : Prop where
  fsm : t.fsm = s.fsm ∨ t.fsm = .idle
  shown : ∀ e ∈ s.eventsSince t, e = .reset ∨ ∃ reg v, e = .hostRead reg v

/-- A step is one of the block's own events or another turn. -/
theorem step_own_or_other {s t : State} (h : step s = .next t) :
    (∃ u, Delivered s u ∧ SeqEvent u t) ∨ OtherTurn s t := by
  have of {events : List PortEvent} (hf : t.fsm = s.fsm ∨ t.fsm = .idle) (ht : t.trace = s.trace ++ events)
      (he : ∀ e ∈ events, e = .reset ∨ ∃ reg v, e = .hostRead reg v) :
      (∃ u, Delivered s u ∧ SeqEvent u t) ∨ OtherTurn s t :=
    .inr ⟨hf, fun e hm => he e (mem_of_shown hm ht)⟩
  obtain own | ⟨_, _, rfl⟩ | ⟨op, _, rfl⟩ | ⟨reg, v, _, _, rfl⟩ | ⟨_, _, rfl⟩ | ⟨_, rfl⟩ := step_cases h
  · exact .inl own
  · exact of (.inl rfl) (List.append_nil _).symm nofun
  · exact of (.inl rfl) (List.append_nil _).symm nofun
  · exact of (.inl rfl) rfl (by simp)
  · exact of (.inl rfl) (List.append_nil _).symm nofun
  · exact of (.inr rfl) rfl (by simp)

/-! ### The entry of I_CAL -/

/-- The event that enters I_CAL is the Ok status response of I_STAT1, and it puts the byte into `st` (R114). -/
theorem SeqEvent.st_of_enters_iCal {s t : State} (h : SeqEvent s t) (ht : t.fsm = .iCal)
    (hs : s.fsm ≠ .iCal) : t.st[3] = false := by
  have hf := (h.enters_iCal ht hs).1
  cases h with
  | stat1 rx =>
    have hcal : calFlag (statusOf rx) = false := by simpa [onStat1] using ht
    exact hcal
  | aborted r code rx _ _ _ hc => rw [abort_of_failed hc] at ht; cases ht
  | delayDone nextFsm _ _ hsucc => exact absurd ht hsucc.succ_ne_iCal
  | written rx nextFsm _ _ _ hsucc => exact absurd ht hsucc.succ_ne_iCal
  | _ => simp_all -- the others start in another state than I_STAT1, or leave `fsm`

/-- Settles O15: I_CAL is a bus state whose Ok handler goes to I_CAL_WAIT, and of all the turns only the block's
own event enters it. -/
theorem calibrateState : Obligations.CalibrateState := by
  refine ⟨fun s hf => ?_, fun s t h ht hs => ?_⟩
  · have he := exec_devCalibrate_iCal hf
    exact ⟨by rw [hf]; rfl, exec_busState_issue he, fun hp hr => exec_busState_ok he hp hr rfl,
      exec_busState_failed he⟩
  · obtain ⟨u, hd, he⟩ | hother := step_own_or_other h
    · have hu : u.fsm ≠ .iCal := hd.fsm ▸ hs
      exact ⟨hd.fsm ▸ (he.enters_iCal ht hu).1, he.st_of_enters_iCal ht hu⟩
    · obtain hf | hf := hother.fsm
      · exact absurd (hf.symm.trans ht) hs
      · cases ht.symm.trans hf

end Sys2Proof.Machine
end

section
/-! SUPPORT. INIT as a whole: its run under one order of turns, and the port events of every completed operation
(40_init.md R110, R123; 41_measure.md R140, R148, R152; 60_exceptions.md R233). -/

namespace Sys2Proof.Machine

/-! ### The rule that the Sequencer's turn is in a state -/

theorem sequencerTurn_delaySucc {s : State} {g : Fsm} {ms : Millis} (h : DelaySucc s.fsm g)
    (hq : portRequest s.params s.fsm = some (.delay ms)) : sequencerTurn s = delayState ms g s := by
  generalize hf : s.fsm = f at h hq
  cases h <;> cases hq
  case iPwrWait => exact (sequencerTurn_of_fetch (by simp [fetch, hf])).trans (exec_init_iPwrWait hf)
  case iResetWait => exact (sequencerTurn_of_fetch (by simp [fetch, hf])).trans (exec_init_iResetWait hf)
  case iCalWait => exact (sequencerTurn_of_fetch (by simp [fetch, hf])).trans (exec_init_iCalWait hf)
  case mWait => exact (sequencerTurn_of_fetch (by simp [fetch, hf])).trans (exec_measure_mWait hf)

theorem sequencerTurn_writeSucc {s : State} {g : Fsm} {r : BusReq} (h : WriteSucc s.fsm g)
    (hq : portRequest s.params s.fsm = some (.bus r)) :
    sequencerTurn s = busState r (fun _ t => { t with fsm := g }) s := by
  generalize hf : s.fsm = f at h hq
  cases h <;> cases hq
  case iReset => exact (sequencerTurn_of_fetch (by simp [fetch, hf])).trans (exec_devSoftReset_iReset hf)
  case iCal => exact (sequencerTurn_of_fetch (by simp [fetch, hf])).trans (exec_devCalibrate_iCal hf)
  case mTrig => exact (sequencerTurn_of_fetch (by simp [fetch, hf])).trans (exec_devTrigger_mTrig hf)

theorem sequencerTurn_iStat1 {s : State} (hf : s.fsm = .iStat1) :
    sequencerTurn s = busState (readStatusReq s.params) onStat1 s :=
  (sequencerTurn_of_fetch (by simp [fetch, hf])).trans (exec_devReadStatus_iStat1 hf)

theorem sequencerTurn_iStat2 {s : State} (hf : s.fsm = .iStat2) :
    sequencerTurn s = busState (readStatusReq s.params) onStat2 s :=
  (sequencerTurn_of_fetch (by simp [fetch, hf])).trans (exec_devReadStatus_iStat2 hf)

/-! ### A request, and the answer that comes in the very next turn -/

/-- In the Sequencer's turn a state issues its request (R30). -/
theorem step_issue {s : State} {r : PortRequest} (hq : portRequest s.params s.fsm = some r)
    (hp : s.pend = false) (hn : s.nextTurn = .sequencer) : step s = .next (issue r s.popTurn) := by
  rw [step_of_legal (legal_of_request hq), hn]
  change sequencerTurn s.popTurn = _
  cases r with
  | bus r =>
    obtain ⟨onOk, he⟩ := sequencerTurn_bus (s := s.popTurn) hq
    exact he.trans (busState_issue hp)
  | delay ms =>
    obtain ⟨g, he⟩ := sequencerTurn_delay (s := s.popTurn) hq
    exact he.trans (delayState_issue hp)

theorem nextTurn_of_schedule {s : State} {turn : Turn} {rest : List Turn} (h : s.schedule = turn :: rest) :
    s.nextTurn = turn := by
  simp [State.nextTurn, h]

/-- The state in which a delay's done is at the port, when the very next turn brings it. -/
def delayAnswered (ms : Millis) (s : State) : State :=
  deliverDelayDone (issue (.delay ms) s.popTurn).popTurn

/-- The state in which a bus request's response is at the port, when the very next turn brings it. -/
def busAnswered (req : BusReq) (rx : List Byte) (s : State) : State :=
  deliverBusAnswer .ok rx (issue (.bus req) s.popTurn).popTurn

theorem run_succ {n : Nat} {s t : State} (h : step s = .next t) :
    Sys2Proof.core.run (n + 1) s = Sys2Proof.core.run n t := by
  simp only [Host.Core.run, show Sys2Proof.core.step s = .next t from h]

/-- The turns of a delay that is answered at once. -/
def delayTurns : List Turn := [.sequencer, .delayDone]

/-- The turns of a bus request that is answered Ok at once. -/
def busTurns (rx : List Byte) : List Turn := [.sequencer, .busAnswer .ok rx]

section Transactions

variable {s : State} {later : List Turn}

/-- A delay state whose delay is answered at once goes on to its successor. -/
theorem run_delay {g : Fsm} {ms : Millis} (hsucc : DelaySucc s.fsm g)
    (hq : portRequest s.params s.fsm = some (.delay ms)) (hp : s.pend = false)
    (hs : s.schedule = delayTurns ++ later) (n : Nat) :
    Sys2Proof.core.run (n + 2) s
      = Sys2Proof.core.run n { takeDelayDone (delayAnswered ms s) with fsm := g } := by
  rw [run_succ (step_issue hq hp (nextTurn_of_schedule hs))]
  refine run_succ ?_
  have hn : (issue (.delay ms) s.popTurn).nextTurn = .delayDone := nextTurn_of_schedule (congrArg List.tail hs)
  have hpend : (issue (.delay ms) s.popTurn).delayPending = true := delayPending_iff.2 ⟨rfl, ms, hq⟩
  rw [step_of_legal (s := issue (.delay ms) s.popTurn) (legal_of_request hq), hn]
  simp only [agentTurn, popTurn_delayPending, hpend, if_true]
  exact (sequencerTurn_delaySucc (s := delayAnswered ms s) hsucc hq).trans (delayState_done rfl rfl)

/-- A bus state whose request is answered Ok at once runs the handler of that response. -/
theorem run_bus {req : BusReq} {onOk : List Byte → State → State} {rx : List Byte}
    (hq : portRequest s.params s.fsm = some (.bus req)) (hp : s.pend = false)
    (hs : s.schedule = busTurns rx ++ later)
    (hturn : sequencerTurn (busAnswered req rx s) = busState req onOk (busAnswered req rx s))
    (hl : rx.length = req.rxLen) (n : Nat) :
    Sys2Proof.core.run (n + 2) s
      = Sys2Proof.core.run n (onOk rx (takeBusAnswer .ok rx (busAnswered req rx s))) := by
  rw [run_succ (step_issue hq hp (nextTurn_of_schedule hs))]
  refine run_succ ?_
  have hn : (issue (.bus req) s.popTurn).nextTurn = .busAnswer .ok rx :=
    nextTurn_of_schedule (congrArg List.tail hs)
  have hpend : (issue (.bus req) s.popTurn).busPending = true := busPending_iff.2 ⟨rfl, req, hq⟩
  rw [step_of_legal (s := issue (.bus req) s.popTurn) (legal_of_request hq), hn]
  simp only [agentTurn, popTurn_busPending, hpend, if_true]
  exact hturn.trans (busState_ok rfl rfl hl)

end Transactions

/-! ### The run of an INIT -/

/-- What the block keeps from the Accept of an INIT to its end. -/
structure KeptByInit (s t : State) : Prop where
  params : t.params = s.params
  requests : t.requests = s.requests
  frame : t.frame = s.frame
  rawT : t.rawT = s.rawT
  rawH : t.rawH = s.rawH
  temp : t.temp = s.temp
  hum : t.hum = s.hum
  hasReading : t.hasReading = s.hasReading

theorem KeptByInit.refl (s : State) : KeptByInit s s := ⟨rfl, rfl, rfl, rfl, rfl, rfl, rfl, rfl⟩

theorem KeptByInit.trans {s t u : State} (h : KeptByInit s t) (h' : KeptByInit t u) : KeptByInit s u :=
  ⟨h'.params.trans h.params, h'.requests.trans h.requests, h'.frame.trans h.frame, h'.rawT.trans h.rawT,
    h'.rawH.trans h.rawH, h'.temp.trans h.temp, h'.hum.trans h.hum, h'.hasReading.trans h.hasReading⟩

/-- The agents' turns `turns` bring the block from `s` to `t`, where the turns `later` are left and no request is
outstanding; the ports have shown `events` in between. -/
structure Passes (s : State) (turns later : List Turn) (events : List PortEvent) (t : State) : Prop where
  run : ∀ n, Sys2Proof.core.run (n + turns.length) s = Sys2Proof.core.run n t
  schedule : t.schedule = later
  pend : t.pend = false
  trace : t.trace = s.trace ++ events
  kept : KeptByInit s t

theorem Passes.trans {s t u : State} {turns turns' rest later : List Turn} {events events' : List PortEvent}
    (h : Passes s turns rest events t) (h' : Passes t turns' later events' u) :
    Passes s (turns ++ turns') later (events ++ events') u where
  run n := by rw [List.length_append, Nat.add_comm turns.length, ← Nat.add_assoc, h.run, h'.run]
  schedule := h'.schedule
  pend := h'.pend
  trace := by rw [h'.trace, h.trace, List.append_assoc]
  kept := h.kept.trans h'.kept

/-- The whole run that the turns are. -/
theorem Passes.run_to {s t : State} {turns later : List Turn} {events : List PortEvent}
    (h : Passes s turns later events t) : Sys2Proof.core.run turns.length s = .next t :=
  (congrArg (Sys2Proof.core.run · s) (Nat.zero_add _).symm).trans (h.run 0)

section Passing

variable {s : State} {later : List Turn}

/-- A delay state, answered at once. -/
theorem passes_delay {f g : Fsm} {ms : Millis} (hf : s.fsm = f) (hsucc : DelaySucc f g)
    (hq : portRequest s.params f = some (.delay ms)) (hp : s.pend = false)
    (hs : s.schedule = delayTurns ++ later) :
    ∃ t, Passes s delayTurns later (delayEvents ms) t ∧ t.fsm = g := by
  subst hf
  exact ⟨{ takeDelayDone (delayAnswered ms s) with fsm := g },
    ⟨run_delay hsucc hq hp hs, congrArg (·.tail.tail) hs, rfl, List.append_assoc _ _ _,
      { KeptByInit.refl s with }⟩, rfl⟩

/-- A state that sends a command, answered Ok at once. -/
theorem passes_write {f g : Fsm} {r : BusReq} (hf : s.fsm = f) (hsucc : WriteSucc f g)
    (hq : portRequest s.params f = some (.bus r)) (hl : r.rxLen = 0) (hp : s.pend = false)
    (hs : s.schedule = busTurns [] ++ later) :
    ∃ t, Passes s (busTurns []) later (busEvents r []) t ∧ t.fsm = g := by
  subst hf
  exact ⟨{ takeBusAnswer .ok [] (busAnswered r [] s) with fsm := g },
    ⟨run_bus hq hp hs (sequencerTurn_writeSucc (s := busAnswered r [] s) hsucc hq) hl.symm,
      congrArg (·.tail.tail) hs, rfl, List.append_assoc _ _ _,
      { KeptByInit.refl s with }⟩, rfl⟩

/-- The first status read, answered Ok at once: it goes on by CAL (R114). -/
theorem passes_stat1 {b : Byte} (hf : s.fsm = .iStat1) (hp : s.pend = false)
    (hs : s.schedule = busTurns [b] ++ later) :
    ∃ t, Passes s (busTurns [b]) later (busEvents (readStatusReq s.params) [b]) t
      ∧ t.fsm = if b[3] = false then .iCal else .iCalWait := by
  refine ⟨onStat1 [b] (takeBusAnswer .ok [b] (busAnswered (readStatusReq s.params) [b] s)),
    ⟨run_bus (by rw [hf]; rfl) hp hs (sequencerTurn_iStat1 (s := busAnswered _ [b] s) hf) rfl,
      congrArg (·.tail.tail) hs, rfl, List.append_assoc _ _ _,
      { KeptByInit.refl s with }⟩, ?_⟩
  rw [onStat1_singleton]

/-- The result and the cause of an INIT by CAL of its second status byte (R117, R123). -/
def initOutcomeOf (s2 : Byte) : ResultCode × Cause :=
  if s2[3] then (.ok, .none) else (.err, .calibrationFailure)

/-- The second status read completes with that result (R117). -/
theorem onStat2_eq (b : Byte) (s : State) :
    onStat2 [b] s = complete (initOutcomeOf b).1 (initOutcomeOf b).2 none { s with st := b } := by
  rw [onStat2_singleton, initOutcomeOf]
  split <;> rfl

/-- The second status read, answered Ok at once: it completes by CAL (R117). -/
theorem passes_stat2 {b : Byte} (hf : s.fsm = .iStat2) (hp : s.pend = false)
    (hs : s.schedule = busTurns [b] ++ later) :
    ∃ t, Passes s (busTurns [b]) later
        (busEvents (readStatusReq s.params) [b] ++ [.complete t.result t.errCause]) t
      ∧ t.fsm = .idle ∧ t.done = true ∧ t.st = b ∧ (t.result, t.errCause) = initOutcomeOf b := by
  have run := run_bus (by rw [hf]; rfl) hp hs (sequencerTurn_iStat2 (s := busAnswered _ [b] s) hf) rfl
  rw [onStat2_eq] at run
  exact ⟨_, ⟨run, congrArg (·.tail.tail) hs, rfl, by simp [busAnswered, busEvents],
    { KeptByInit.refl s with }⟩, rfl, rfl, rfl, rfl⟩

theorem Passes.refl (hp : s.pend = false) : Passes s [] s.schedule [] s :=
  ⟨fun _ => rfl, rfl, hp, (List.append_nil _).symm, .refl s⟩

/-- The turns up to the first status read. -/
def headTurns : List Turn := delayTurns ++ busTurns [] ++ delayTurns

/-- The turns of the calibrate command, which is sent only when the first status has CAL = 0. -/
def calibrateTurns (s1 : Byte) : List Turn := if calFlag s1 then [] else busTurns []

/-- The turns from the first status read to the second. -/
def middleTurns (s1 : Byte) : List Turn := busTurns [s1] ++ calibrateTurns s1 ++ delayTurns

/-- The turns of an INIT: the Accept, and then its parts (R123). -/
theorem initTurns_eq (s1 s2 : Byte) :
    initTurns s1 s2 = .sequencer :: (headTurns ++ middleTurns s1 ++ busTurns [s2]) := by
  unfold initTurns middleTurns calibrateTurns
  cases calFlag s1 <;> rfl

/-- From I_PWR_WAIT to the first status read (R123). -/
theorem passes_head (hf : s.fsm = .iPwrWait) (hp : s.pend = false) (hs : s.schedule = headTurns ++ later) :
    ∃ t, Passes s headTurns later (initHead s.params) t ∧ t.fsm = .iStat1 := by
  obtain ⟨t, ht, hft⟩ := passes_delay hf .iPwrWait rfl hp hs
  obtain ⟨u, hu, hfu⟩ := passes_write hft .iReset rfl rfl ht.pend ht.schedule
  obtain ⟨v, hv, hfv⟩ := passes_delay hfu .iResetWait rfl hu.pend hu.schedule
  rw [ht.kept.params] at hu
  exact ⟨v, (ht.trans hu).trans hv, hfv⟩

/-- From the first status on, I_CAL is passed when CAL = 0 and skipped when CAL = 1 (R114). -/
theorem passes_calibrate {s1 : Byte} (hf : s.fsm = if s1[3] = false then .iCal else .iCalWait)
    (hp : s.pend = false) (hs : s.schedule = calibrateTurns s1 ++ later) :
    ∃ t, Passes s (calibrateTurns s1) later (initCalibrate s.params s1) t ∧ t.fsm = .iCalWait := by
  unfold calibrateTurns calFlag at hs ⊢
  unfold initCalibrate
  cases hcal : s1[3] with
  | true =>
    simp only [hcal] at hf hs ⊢
    obtain rfl : s.schedule = later := hs
    exact ⟨s, .refl hp, hf⟩
  | false =>
    simp only [hcal] at hf hs ⊢
    exact passes_write hf .iCal rfl rfl hp hs

/-- From the first status read to the second (R123). -/
theorem passes_middle {s1 : Byte} (hf : s.fsm = .iStat1) (hp : s.pend = false)
    (hs : s.schedule = middleTurns s1 ++ later) :
    ∃ t, Passes s (middleTurns s1) later (initMiddle s.params s1) t ∧ t.fsm = .iStat2 := by
  obtain ⟨t, ht, hft⟩ := passes_stat1 (b := s1) hf hp (by
    rw [hs, middleTurns, List.append_assoc, List.append_assoc])
  obtain ⟨u, hu, hfu⟩ := passes_calibrate hft ht.pend ht.schedule
  obtain ⟨v, hv, hfv⟩ := passes_delay hfu .iCalWait rfl hu.pend hu.schedule
  rw [ht.kept.params] at hu
  exact ⟨v, (ht.trans hu).trans hv, hfv⟩

/-- From I_PWR_WAIT on, the turns of an INIT bring it to its end. -/
theorem passes_init {s1 s2 : Byte} (hf : s.fsm = .iPwrWait) (hp : s.pend = false)
    (hs : s.schedule = headTurns ++ middleTurns s1 ++ busTurns [s2] ++ later) :
    ∃ t, Passes s (headTurns ++ middleTurns s1 ++ busTurns [s2]) later
        (initSequence s.params s1 s2 ++ [.complete t.result t.errCause]) t
      ∧ t.fsm = .idle ∧ t.done = true ∧ t.st = s2 ∧ (t.result, t.errCause) = initOutcomeOf s2 := by
  obtain ⟨t, ht, hft⟩ := passes_head hf hp (by rw [hs, List.append_assoc, List.append_assoc])
  obtain ⟨u, hu, hfu⟩ := passes_middle hft ht.pend ht.schedule
  obtain ⟨v, hv, hend⟩ := passes_stat2 hfu hu.pend hu.schedule
  rw [ht.kept.params] at hu
  rw [hu.kept.params, ht.kept.params] at hv
  have hall := (ht.trans hu).trans hv
  rw [← List.append_assoc] at hall
  exact ⟨v, hall, hend⟩

end Passing

/-- Settles O53: the Accept, and then the states of INIT one after the other, each answered at once. -/
theorem initOutcome : Obligations.InitOutcome := by
  intro s s1 s2 rest later hf hp hr hs
  rw [initTurns_eq] at hs ⊢
  have hacc : step s = .next (acceptInto 0b01#2 .iPwrWait s.popTurn) :=
    step_accept hf hr (nextTurn_of_schedule hs)
  obtain ⟨t, ht, hidle, hdone, hst, hout⟩ :=
    passes_init (s := acceptInto 0b01#2 .iPwrWait s.popTurn) rfl hp (congrArg List.tail hs)
  obtain ⟨hparams, hrequests, hframe, hrawT, hrawH, htemp, hhum, hreading⟩ := ht.kept
  have hresult : t.result = (initOutcomeOf s2).1 := congrArg Prod.fst hout
  have hcause : t.errCause = (initOutcomeOf s2).2 := congrArg Prod.snd hout
  refine ⟨t, (run_succ hacc).trans ht.run_to, hidle, ht.pend, hdone, hst, ?_, ht.schedule, hparams,
    hframe, hrawT, hrawH, htemp, hhum, hreading, ?_, ?_, ?_⟩
  · rw [hrequests, acceptInto_requests, popTurn_requests, hr]; rfl
  · rw [hresult, initOutcomeOf]; split <;> rfl
  · rw [hcause, initOutcomeOf]; split <;> rfl
  · rw [ht.trace]; simp

/-! ### The events of a completed operation -/

/-- What the bus and delay events of an operation are when it completes in `s` with the result `r` and the
cause `c`: a whole sequence, or one cut short after the transaction that failed. -/
inductive Ended (s : State) (events : List PortEvent) (r : ResultCode) (c : Cause) : Prop
  | init (s1 s2 : Byte) (hf : s.fsm = .iStat2) (he : events = initSequence s.params s1 s2)
      (ho : (r, c) = initOutcomeOf s2)
  | measure (hf : s.fsm = .mEval) (he : events = measureSequence s.params s.frame)
      (ho : (r, c) = ((measureOutcome s.params.floatFormat s.frame).1,
        (measureOutcome s.params.floatFormat s.frame).2.1))
  | failed (before : List PortEvent) (req : BusReq) (rx : List Byte) (hc : c = .transport)
      (hs : s.SoFar before) (hq : portRequest s.params s.fsm = some (.bus req))
      (he : events = before ++ [.request (.bus req), .busAnswer r rx])

/-- After the last answer of an operation its events are those before its state, then the transaction. -/
theorem State.TraceFits.lastAnswer {s : State} {req : BusReq} (h : s.TraceFits) (hp : s.pend = true)
    (hq : portRequest s.params s.fsm = some (.bus req)) :
    ∃ before, s.SoFar before ∧ ∀ code rx r c,
      opEvents (s.trace ++ [.busAnswer code rx] ++ [.complete r c])
        = before ++ [.request (.bus req), .busAnswer code rx] := by
  obtain ⟨before, hs, ht⟩ := h.outstanding hp hq
  refine ⟨before, hs, fun code rx r c => ?_⟩
  rw [opEvents_append, opEvents_append, ht]
  exact List.append_assoc ..

/-- The evaluation completes with `Outcome(f)` of its frame (R152). -/
theorem evaluate_outcome (s : State) :
    ∃ u, u.trace = s.trace ∧ evaluate s = complete (measureOutcome s.params.floatFormat s.frame).1
      (measureOutcome s.params.floatFormat s.frame).2.1 (measureOutcome s.params.floatFormat s.frame).2.2 u := by
  obtain ⟨hc, h⟩ | ⟨hc, hcrc, h⟩ | ⟨hc, hcrc, h⟩ := evaluate_cases s <;> rw [h]
  · obtain ⟨hbusy, hs⟩ | ⟨hbusy, hcal, hs⟩ | ⟨_, _, hs⟩ := statusCheck_cases s.frame.b0
    · exact ⟨s, rfl, by simp only [measureOutcome, hs, hbusy]⟩
    · exact ⟨s, rfl, by simp only [measureOutcome, hs, hbusy, hcal]⟩
    · exact absurd hs hc
  · obtain ⟨hbusy, hcal⟩ := flags_of_statusCheck_none hc
    simp only [frameCrcOk, Frame.bytes] at hcrc
    exact ⟨s, rfl, by simp only [measureOutcome, hbusy, hcal, hcrc]⟩
  · obtain ⟨hbusy, hcal⟩ := flags_of_statusCheck_none hc
    simp only [frameCrcOk, Frame.bytes] at hcrc
    exact ⟨{ s with rawT := unpackT s.frame, rawH := unpackH s.frame }, rfl,
      by simp only [measureOutcome, completeReading, hbusy, hcal, hcrc]⟩

/-- An event of the block that completes an operation ends its sequence, or cuts it short. -/
theorem SeqEvent.ended {s t : State} {r : ResultCode} {c : Cause} (h : SeqEvent s t) (hs : s.TraceFits)
    (hm : .complete r c ∈ s.eventsSince t) (hc : c ≠ .illegalOp) : Ended s (opEvents t.trace) r c := by
  cases h with
  | aborted req code rx hp hq _ hcode =>
    rw [abort_of_failed hcode] at hm ⊢
    obtain ⟨rfl, rfl⟩ : r = code ∧ c = .transport := by simpa using mem_of_shown hm (List.append_assoc ..)
    obtain ⟨before, hsofar, hev⟩ := hs.lastAnswer hp hq
    exact .failed before req rx rfl hsofar hq (hev ..)
  | stat2 rx hf hp _ hl =>
    obtain ⟨b, rfl⟩ := List.length_eq_one_iff.1 hl
    rw [onStat2_eq] at hm ⊢
    have ho : r = (initOutcomeOf b).1 ∧ c = (initOutcomeOf b).2 := by
      simpa using mem_of_shown hm (List.append_assoc ..)
    obtain ⟨before, hsofar, hev⟩ := hs.lastAnswer (req := readStatusReq s.params) hp (by rw [hf]; rfl)
    simp only [State.SoFar, hf] at hsofar
    obtain ⟨s1, rfl⟩ := hsofar
    exact .init s1 b hf (hev ..) (Prod.ext ho.1 ho.2)
  | evaluated hf =>
    obtain ⟨u, hu, he⟩ := evaluate_outcome s
    have htrace := (congrArg State.trace he).trans (congrArg (· ++ _) hu)
    have ho := mem_of_shown hm htrace
    simp only [List.mem_singleton, PortEvent.complete.injEq] at ho
    obtain ⟨before, hsofar, ht⟩ := hs
    simp only [State.SoFar, hf] at hsofar
    have hev : opEvents s.trace = measureSequence s.params s.frame := by
      simpa [hf, portRequest, hsofar] using ht
    exact .measure hf (by rw [htrace, opEvents_append, hev]; rfl) (Prod.ext ho.1 ho.2)
  | acceptIllegal op =>
    have := mem_of_shown hm ((acceptIllegal_trace op s).trans (List.append_assoc ..))
    simp [hc] at this
  | _ => simpa using mem_of_shown hm rfl -- the others show no completion

/-- An answer just delivered does not change what the operation had shown before its state. -/
theorem Delivered.soFar {s u : State} {events : List PortEvent} (h : Delivered s u) (hs : u.SoFar events) :
    s.SoFar events := by
  cases h <;> exact hs

/-- Settles O57: the completion is the block's own event's, and the record fits the state it happens in. -/
theorem completedOperationsRanTheirSequence : Obligations.CompletedOperationsRanTheirSequence := by
  intro s t r c _ hs h hm hc
  obtain ⟨u, hd, he⟩ | hother := step_own_or_other h
  · rw [hd.eventsSince] at hm
    have hfits : u.TraceFits := by cases hd <;> exact hs
    rw [← hd.fsm, ← hd.params, ← hd.frame]
    obtain ⟨s1, s2, hf, hev, ho⟩ | ⟨hf, hev, ho⟩ | ⟨before, req, rx, htr, hb, hq, hev⟩ :=
      he.ended hfits hm hc
    · exact .inl ⟨s1, s2, hf, hev, ho⟩
    · exact .inr (.inl ⟨hf, hev, ho⟩)
    · exact .inr (.inr ⟨htr, before, req, rx, hd.soFar hb, hq, hev⟩)
  · obtain h | ⟨_, _, h⟩ := hother.shown _ hm
    · cases h
    · cases h

end Sys2Proof.Machine
end

section
/-! SUPPORT. MEASURE: the events of its states as whole next states, its run under one order of turns, and what
writes TEMP and HUM; and that the block answers every turn and every answer of an operation (41_measure.md R141 to
R148, R152; 10_state.md R248). -/

namespace Sys2Proof.Machine

/-! ### The state rule that an instruction is in a state -/

theorem exec_measure_mRead {s : State} (hf : s.fsm = .mRead) : exec .measure s = stateMRead s := by
  simp [exec, execMeasure, hf]

theorem exec_measure_mEval {s : State} (hf : s.fsm = .mEval) : exec .measure s = .next (evaluate s) := by
  simp [exec, execMeasure, hf]

theorem fetch_mRead {s : State} (hf : s.fsm = .mRead) : fetch s = .instr .measure := by
  simp [fetch, hf]

theorem fetch_mEval {s : State} (hf : s.fsm = .mEval) : fetch s = .instr .measure := by
  simp [fetch, hf]

/-! ### The branches of the evaluation (R144, R170) -/

theorem statusCheck_of_busy {b : Byte} (h : b[7] = true) : statusCheck b = .sensorBusy := if_pos h

theorem statusCheck_of_not_calibrated {b : Byte} (h7 : b[7] = false) (h3 : b[3] = false) :
    statusCheck b = .notCalibrated := by
  simp [statusCheck, busyFlag, calFlag, h7, h3]

theorem statusCheck_of_ready {b : Byte} (h7 : b[7] = false) (h3 : b[3] = true) : statusCheck b = .none := by
  simp [statusCheck, busyFlag, calFlag, h7, h3]

theorem evaluate_of_bad_status {s : State} {c : Cause} (hs : statusCheck s.frame.b0 = c) (hc : c ≠ .none) :
    evaluate s = complete .err c none s := by
  subst hs
  exact if_pos hc

theorem evaluate_of_bad_crc {s : State} (hs : statusCheck s.frame.b0 = .none)
    (hc : crc8 s.frame.bytes ≠ 0x00#8) : evaluate s = complete .err .dataCorruption none s := by
  simp [evaluate, frameCrcOk, hs, hc]

theorem evaluate_of_good_frame {s : State} (hs : statusCheck s.frame.b0 = .none)
    (hc : crc8 s.frame.bytes = 0x00#8) : evaluate s = completeReading s := by
  simp [evaluate, frameCrcOk, hs, hc]

/-! ### The obligations of the states -/

/-- Settles O17: M_TRIG is a bus state whose Ok handler goes to M_WAIT, and the Accept that enters it shows no
request. -/
theorem triggerState : Obligations.TriggerState := by
  refine ⟨fun s hf => ?_, fun s hf => ?_⟩
  · have he := exec_devTrigger_mTrig hf
    exact ⟨by rw [hf]; rfl, exec_busState_issue he, fun hp hr => exec_busState_ok he hp hr rfl,
      exec_busState_failed he⟩
  · have hs : s.eventsSince (acceptInto 0b10#2 .mTrig s) = [.accept 0b10#2] := eventsSince_of_append rfl
    exact ⟨_, (operationsAccepted s hf).2, rfl, congrArg requestsIn hs⟩

/-- Settles O18: M_READ is a bus state whose Ok handler writes the frame and goes to M_EVAL. -/
theorem frameReadState : Obligations.FrameReadState := by
  intro s hf
  have he := exec_measure_mRead hf
  exact ⟨by rw [hf]; rfl, exec_busState_issue he, fun _ _ _ _ _ _ _ hp hr => exec_busState_ok he hp hr rfl,
    exec_busState_failed he⟩

/-- Settles O19: one branch of the evaluation for each clause. -/
theorem evaluationState : Obligations.EvaluationState := by
  intro s hf
  rw [exec_measure_mEval hf]
  refine ⟨by rw [hf]; rfl, fun h7 => ?_, fun h7 h3 => ?_, fun h7 h3 hcrc => ?_, fun h7 h3 hcrc => ?_⟩
  · rw [evaluate_of_bad_status (statusCheck_of_busy h7) nofun]; rfl
  · rw [evaluate_of_bad_status (statusCheck_of_not_calibrated h7 h3) nofun]; rfl
  · rw [evaluate_of_bad_crc (statusCheck_of_ready h7 h3) hcrc]; rfl
  · rw [evaluate_of_good_frame (statusCheck_of_ready h7 h3) hcrc]; rfl

/-! ### What writes TEMP and HUM (R147) -/

/-- In M_EVAL the block has one event, the evaluation. -/
theorem SeqEvent.eq_evaluate {s t : State} (h : SeqEvent s t) (hf : s.fsm = .mEval) : t = evaluate s := by
  have noRequest {r : PortRequest} : portRequest s.params s.fsm ≠ some r := by rw [hf]; nofun
  cases h with
  | evaluated => rfl
  | issue r _ hr => exact absurd hr noRequest
  | aborted r code rx _ hq => exact absurd hq noRequest
  | delayDone nextFsm _ _ hs =>
    obtain ⟨_, hq⟩ := hs.request s.params
    exact absurd hq noRequest
  | written rx nextFsm _ _ _ hs =>
    obtain ⟨_, hq⟩ := hs.request s.params
    exact absurd hq noRequest
  | acceptInto op first hi => cases hf.symm.trans hi
  | acceptIllegal op hi => cases hf.symm.trans hi
  | stat1 rx hi => cases hf.symm.trans hi
  | stat2 rx hi => cases hf.symm.trans hi
  | frameRead rx hi => cases hf.symm.trans hi

/-- The one event that writes TEMP, HUM or `hasReading` is the Ok branch of the evaluation. -/
theorem SeqEvent.completes_reading {s t : State} (h : SeqEvent s t)
    (hchange : t.temp ≠ s.temp ∨ t.hum ≠ s.hum ∨ t.hasReading ≠ s.hasReading) :
    s.fsm = .mEval ∧ t = completeReading s := by
  have hf : s.fsm = .mEval := by
    by_contra hf
    obtain ⟨htemp, hhum, hreading⟩ := h.reading_kept hf
    simp [htemp, hhum, hreading] at hchange
  obtain rfl := h.eq_evaluate hf
  obtain ⟨_, he⟩ | ⟨_, _, he⟩ | ⟨_, _, he⟩ := evaluate_cases s <;> rw [he] at hchange ⊢
  · simp at hchange
  · simp at hchange
  · exact ⟨hf, rfl⟩

/-- Settles O26: only the block's own event writes the reading, and no other agent's turn but reset does. -/
theorem readingWrittenOnlyByOkMeasure : Obligations.ReadingWrittenOnlyByOkMeasure := by
  intro s t h hn hchange
  obtain ⟨u, hd, he⟩ | ⟨_, _, rfl⟩ | ⟨op, _, rfl⟩ | ⟨reg, v, _, _, rfl⟩ | ⟨_, _, rfl⟩ | ⟨hr, _⟩ :=
    step_cases h
  · rw [← hd.temp, ← hd.hum, ← hd.hasReading] at hchange
    obtain ⟨hf, rfl⟩ := he.completes_reading hchange
    have hshown : u.eventsSince (completeReading u) = [.complete .ok .none] := eventsSince_of_append rfl
    rw [hd.eventsSince, hshown, ← hd.fsm, ← hd.params, ← hd.frame]
    exact ⟨hf, List.mem_singleton_self _, rfl, rfl, rfl⟩
  · simp at hchange
  · simp at hchange
  · simp at hchange
  · simp at hchange
  · exact absurd hr hn

/-! ### The block answers (R146, R248) -/

/-- With no response at the bus port the Sequencer's turn answers: it issues, waits, or does its own event. -/
theorem sequencerTurn_answers {s : State} (hl : s.fsm.code.toNat < 12) (hc : s.busResp = none) :
    ∃ t, sequencerTurn s = .next t := by
  match hq : portRequest s.params s.fsm with
  | none => exact sequencerTurn_of_no_request hl hq
  | some (.bus r) =>
    obtain ⟨onOk, he⟩ := sequencerTurn_bus hq
    cases hp : s.pend with
    | false => exact ⟨_, he.trans (busState_issue hp)⟩
    | true => exact ⟨_, he.trans (busState_wait hp hc)⟩
  | some (.delay ms) =>
    obtain ⟨nextFsm, he⟩ := sequencerTurn_delay hq
    obtain ⟨t, ht⟩ := delayState_total ms nextFsm s
    exact ⟨t, he.trans ht⟩

/-- A response within the contract of R25 is answered. -/
theorem busAnswer_answers {req : BusReq} (onOk : List Byte → State → State) {code : ResultCode} {rx : List Byte}
    (s : State) (hc : (code = .ok ∧ rx.length = req.rxLen) ∨ code = .err ∨ code = .timeout) :
    ∃ t, busAnswer req onOk ⟨code, rx⟩ s = .next t := by
  obtain ⟨rfl, hl⟩ | rfl | rfl := hc
  · exact ⟨_, if_pos hl⟩
  · exact ⟨_, rfl⟩
  · exact ⟨_, rfl⟩

/-- An outstanding request is at one of the two ports. -/
theorem State.Inv.pending {s : State} (hi : s.Inv) (hp : s.pend = true) :
    s.busPending = true ∨ s.delayPending = true := by
  obtain ⟨r, hq⟩ := Option.isSome_iff_exists.1 (hi.pendOnRequest hp)
  cases r with
  | bus r => exact .inl (busPending_iff.2 ⟨hp, r, hq⟩)
  | delay ms => exact .inr (delayPending_iff.2 ⟨hp, ms, hq⟩)

/-- Settles O60: the Sequencer's own turn, the two kinds of answer, and the ports an answer can come from. -/
theorem operationsNeverHangByThemselves : Obligations.OperationsNeverHangByThemselves := by
  intro s hi _
  have answered {code : ResultCode} {rx : List Byte} {req : BusReq} (hb : s.busPending = true)
      (hq : portRequest s.params s.fsm = some (.bus req)) (hn : s.nextTurn = .busAnswer code rx)
      (hc : (code = .ok ∧ rx.length = req.rxLen) ∨ code = .err ∨ code = .timeout) : ∃ t, step s = .next t := by
    obtain ⟨onOk, he⟩ := step_busAnswer (busPending_iff.1 hb).1 hq hn
    rw [he]
    exact busAnswer_answers onOk _ hc
  refine ⟨fun hn => ?_, fun hd hn => ?_, fun r rx hb hq hl hn => answered hb hq hn (.inl ⟨rfl, hl⟩),
    fun code rx hb hc hn => ?_, hi.pending⟩
  · rw [step_of_legal hi.fsmLegal, hn]
    exact sequencerTurn_answers (s := s.popTurn) hi.fsmLegal hi.portsClear.1
  · obtain ⟨hp, ms, hq⟩ := delayPending_iff.1 hd
    obtain ⟨nextFsm, he⟩ := step_delayDone hp hq hn
    exact ⟨_, he⟩
  · obtain ⟨_, req, hq⟩ := busPending_iff.1 hb
    exact answered hb hq hn (.inr hc)

/-! ### The run of a MEASURE (R140, R152) -/

/-- After M_TRIG, whose request is answered Ok at once. -/
def triggered (s : State) : State :=
  { takeBusAnswer .ok [] (busAnswered (triggerReq s.params) [] s) with fsm := .mWait }

/-- After M_WAIT, whose delay is answered at once. -/
def waited (s : State) : State := { takeDelayDone (delayAnswered tMeasMs s) with fsm := .mRead }

/-- After M_READ, whose request is answered at once with the bytes of `f`. -/
def frameTaken (f : Frame) (s : State) : State :=
  { takeBusAnswer .ok f.bytes (busAnswered (readFrameReq s.params) f.bytes s) with frame := f, fsm := .mEval }

/-- The turns of a MEASURE between its Accept and its evaluation. -/
def measureAnswered (f : Frame) : List Turn := busTurns [] ++ (delayTurns ++ busTurns f.bytes)

section MeasureRun

variable {s : State} {later : List Turn}

theorem run_triggered (hf : s.fsm = .mTrig) (hp : s.pend = false) (hs : s.schedule = busTurns [] ++ later)
    (n : Nat) : Sys2Proof.core.run (n + 2) s = Sys2Proof.core.run n (triggered s) :=
  have hq : portRequest s.params s.fsm = some (.bus (triggerReq s.params)) := by rw [hf]; rfl
  have hsucc : WriteSucc s.fsm .mWait := hf ▸ .mTrig
  run_bus hq hp hs (sequencerTurn_writeSucc (s := busAnswered (triggerReq s.params) [] s) hsucc hq) rfl n

theorem run_waited (hf : s.fsm = .mWait) (hp : s.pend = false) (hs : s.schedule = delayTurns ++ later)
    (n : Nat) : Sys2Proof.core.run (n + 2) s = Sys2Proof.core.run n (waited s) :=
  run_delay (hf ▸ .mWait) (by rw [hf]; rfl) hp hs n

theorem run_frameTaken {f : Frame} (hf : s.fsm = .mRead) (hp : s.pend = false)
    (hs : s.schedule = busTurns f.bytes ++ later) (n : Nat) :
    Sys2Proof.core.run (n + 2) s = Sys2Proof.core.run n (frameTaken f s) :=
  have turn (t : State) (ht : t.fsm = .mRead) : sequencerTurn t = stateMRead t :=
    (sequencerTurn_of_fetch (fetch_mRead ht)).trans (exec_measure_mRead ht)
  run_bus (by rw [hf]; rfl) hp hs (turn (busAnswered (readFrameReq s.params) f.bytes s) hf) rfl n

/-- From M_TRIG the six turns of the three requests lead to M_EVAL. -/
theorem run_to_mEval {f : Frame} (hf : s.fsm = .mTrig) (hp : s.pend = false)
    (hs : s.schedule = measureAnswered f ++ later) (n : Nat) :
    Sys2Proof.core.run (n + 6) s = Sys2Proof.core.run n (frameTaken f (waited (triggered s))) := by
  rw [run_triggered hf hp hs, run_waited rfl rfl (congrArg List.tail^[2] hs),
    run_frameTaken rfl rfl (congrArg List.tail^[4] hs)]

/-- The requests and answers on the way from M_TRIG to M_EVAL are the sequence of a MEASURE (R148). -/
theorem frameTaken_trace (f : Frame) (s : State) :
    (frameTaken f (waited (triggered s))).trace = s.trace ++ measureSequence s.params f := by
  simp [frameTaken, waited, triggered, busAnswered, delayAnswered, measureSequence, measureHead, busEvents,
    delayEvents, tMeasMs]

/-- In M_EVAL the Sequencer's turn is the evaluation. -/
theorem step_evaluate (hf : s.fsm = .mEval) (hn : s.nextTurn = .sequencer) :
    step s = .next (evaluate s.popTurn) :=
  (step_own (fetch_mEval hf) hn).trans (exec_measure_mEval hf)

end MeasureRun

/-- The evaluation follows `Outcome(f)` of its frame (R152): it fails with that cause and no reading, or it is
the Ok completion. -/
theorem evaluate_by_outcome (s : State) :
    (∃ c, measureOutcome s.params.floatFormat s.frame = (.err, c, none) ∧ evaluate s = complete .err c none s)
    ∨ (measureOutcome s.params.floatFormat s.frame = (.ok, .none, some
          (convT s.params.floatFormat (unpackT s.frame), convH s.params.floatFormat (unpackH s.frame)))
        ∧ evaluate s = completeReading s) := by
  obtain ⟨h7, hs⟩ | ⟨h7, h3, hs⟩ | ⟨h7, h3, hs⟩ := statusCheck_cases s.frame.b0
  · exact .inl ⟨_, by simp only [measureOutcome, h7], evaluate_of_bad_status hs nofun⟩
  · exact .inl ⟨_, by simp only [measureOutcome, h7, h3], evaluate_of_bad_status hs nofun⟩
  · by_cases hcrc : crc8 s.frame.bytes = 0x00#8
    · have hc : (crc8 s.frame.bytes == 0x00#8) = true := beq_iff_eq.2 hcrc
      simp only [Frame.bytes] at hc
      exact .inr ⟨by simp only [measureOutcome, h7, h3, hc], evaluate_of_good_frame hs hcrc⟩
    · have hc : (crc8 s.frame.bytes == 0x00#8) = false := beq_false_of_ne hcrc
      simp only [Frame.bytes] at hc
      exact .inl ⟨_, by simp only [measureOutcome, h7, h3, hc], evaluate_of_bad_crc hs hcrc⟩

/-- The state that a MEASURE accepted in `s` and answered at once evaluates: its frame is `f`. -/
def atEvaluation (f : Frame) (s : State) : State :=
  (frameTaken f (waited (triggered (acceptInto 0b10#2 .mTrig s.popTurn)))).popTurn

/-- The eight turns of a MEASURE lead to the evaluation of the frame read (R140). -/
theorem run_measureTurns {s : State} {f : Frame} {rest : List OpCode} {later : List Turn} (hf : s.fsm = .idle)
    (hp : s.pend = false) (hr : s.requests = 0b10#2 :: rest) (hs : s.schedule = measureTurns f.bytes ++ later) :
    Sys2Proof.core.run 8 s = .next (evaluate (atEvaluation f s)) := by
  have accepted : step s = .next (acceptInto 0b10#2 .mTrig s.popTurn) :=
    step_accept hf hr (nextTurn_of_schedule hs)
  have answered := run_to_mEval (s := acceptInto 0b10#2 .mTrig s.popTurn) (f := f) rfl hp (congrArg List.tail hs) 1
  have evaluated := step_evaluate (s := frameTaken f (waited (triggered (acceptInto 0b10#2 .mTrig s.popTurn))))
    rfl (nextTurn_of_schedule (congrArg List.tail^[7] hs))
  exact (run_succ accepted).trans (answered.trans (run_succ evaluated))

theorem atEvaluation_schedule {s : State} {f : Frame} {later : List Turn}
    (hs : s.schedule = measureTurns f.bytes ++ later) : (atEvaluation f s).schedule = later :=
  congrArg List.tail^[8] hs

theorem atEvaluation_trace (f : Frame) (s : State) :
    (atEvaluation f s).trace = s.trace ++ [.accept 0b10#2] ++ measureSequence s.params f :=
  frameTaken_trace f (acceptInto 0b10#2 .mTrig s.popTurn)

/-- Settles O52: the run ends in the evaluation, which follows `Outcome(f)`. (The name `measureOutcome` is the
model's function.) -/
theorem measureOutcome_of_measureTurns : Obligations.MeasureOutcome := by
  intro s f rest later hf hp hr hs
  have run := run_measureTurns hf hp hr hs
  have requests : (atEvaluation f s).requests = rest := congrArg List.tail hr
  have schedule := atEvaluation_schedule hs
  have trace := atEvaluation_trace f s
  obtain ⟨c, hout, he⟩ | ⟨hout, he⟩ := evaluate_by_outcome (atEvaluation f s)
  · rw [show measureOutcome s.params.floatFormat f = _ from hout]
    exact ⟨_, run.trans (congrArg _ he), rfl, rfl, rfl, rfl, rfl, requests, schedule, rfl, rfl, rfl,
      ⟨rfl, rfl, rfl, rfl, rfl⟩, congrArg (· ++ _) trace⟩
  · rw [show measureOutcome s.params.floatFormat f = _ from hout]
    exact ⟨_, run.trans (congrArg _ he), rfl, rfl, rfl, rfl, rfl, requests, schedule, rfl, rfl, rfl,
      ⟨rfl, rfl, rfl, rfl, rfl⟩, congrArg (· ++ _) trace⟩

end Sys2Proof.Machine
end

section
/-! SUPPORT. The CRC-8 of a frame (42_validate.md R170 to R175): one round of the CRC is an injective, linear map
of the register that keeps its parity; so the byte step `crcG` is a linear bijection, an error is seen by its own
CRC alone, and odd errors by their parity. -/

namespace Sys2Proof.Machine

/-! ### The status byte (R170) -/

/-- Settles O41 by the three lemmas of the status check, one per case. -/
theorem statusCheckFunction : Obligations.StatusCheckFunction := fun _ =>
  ⟨statusCheck_of_busy, statusCheck_of_not_calibrated, statusCheck_of_ready⟩

/-! ### One round (R171) -/

/-- What a round adds to the shifted register when the bit that falls out is `b`. -/
def crcReduction (b : Bool) : Byte := if b then crcPoly else 0#8

theorem crcReduction_xor (a b : Bool) : crcReduction (a ^^ b) = crcReduction a ^^^ crcReduction b := by
  cases a <;> cases b <;> rfl

theorem crcReduction_bit0 (b : Bool) : (crcReduction b)[0] = b := by
  cases b <;> rfl

theorem crcShift_eq (x : Byte) : crcShift x = x <<< 1 ^^^ crcReduction x[7] := by
  unfold crcShift crcReduction
  cases x[7] <;> simp

theorem crcShift_xor (x y : Byte) : crcShift (x ^^^ y) = crcShift x ^^^ crcShift y := by
  simp only [crcShift_eq, BitVec.shiftLeft_xor_distrib, BitVec.getElem_xor, crcReduction_xor]
  ac_rfl

/-- The polynomial has bit 0, so the bit that falls out is not lost. -/
theorem crcShift_bit0 (x : Byte) : (crcShift x)[0] = x[7] := by
  simp [crcShift_eq, crcReduction_bit0]

theorem crcShift_injective : Function.Injective crcShift := by
  intro x y h
  have top : x[7] = y[7] := by rw [← crcShift_bit0, h, crcShift_bit0]
  have shifted : x <<< 1 = y <<< 1 := by
    rwa [crcShift_eq, crcShift_eq, top, BitVec.xor_left_inj] at h
  ext i hi
  obtain rfl | hlow : i = 7 ∨ i + 1 < 8 := by omega
  · exact top
  · simpa [hlow] using congrArg (·[i + 1]) shifted

/-! ### The byte step (R172) -/

theorem crcG_eq_iterate : crcG = crcShift^[8] := rfl

@[simp] theorem crcG_zero : crcG 0#8 = 0#8 := rfl

theorem crcG_xor (x y : Byte) : crcG (x ^^^ y) = crcG x ^^^ crcG y := by
  simp only [crcG, crcShift_xor]

theorem crcG_injective : Function.Injective crcG :=
  crcShift_injective.iterate 8

theorem crcG_eq_zero_iff {x : Byte} : crcG x = 0#8 ↔ x = 0#8 :=
  crcG_injective.eq_iff' crcG_zero

theorem crcFrom_cons (c b : Byte) (m : List Byte) : crcFrom c (b :: m) = crcFrom (crcG (c ^^^ b)) m := rfl

theorem crc8_concat (m : List Byte) (b : Byte) : crc8 (m ++ [b]) = crcG (crc8 m ^^^ b) :=
  List.foldl_concat ..

/-- Settles O43: `crcG` is eight rounds, each linear and injective, and a table equal to it is it. -/
theorem crcByteStep : Obligations.CrcByteStep := by
  refine ⟨crc8_concat, rfl, crcG_xor, crcG_zero, Finite.injective_iff_bijective.1 crcG_injective, by decide,
    fun table htable m => ?_⟩
  obtain rfl : table = crcG := funext htable
  rfl

/-! ### The checksum byte (R174) -/

/-- Settles O44: byte 6 enters last, and only 0 goes to 0 under the byte step. -/
theorem crcCheckIsChecksumMatch : Obligations.CrcCheckIsChecksumMatch := by
  intro f
  have last : crc8 f.bytes = crcG (crc8 f.payload ^^^ f.b6) := crc8_concat f.payload f.b6
  rw [frameCrcOk, beq_iff_eq, last, crcG_eq_zero_iff, BitVec.xor_eq_zero_iff, Frame.payload]

/-! ### Errors: the CRC is affine (R175) -/

theorem crcFrom_corrupt {m e : List Byte} (h : m.length = e.length) (c d : Byte) :
    crcFrom (c ^^^ d) (corrupt m e) = crcFrom c m ^^^ crcFrom d e := by
  induction m generalizing e c d with
  | nil => obtain rfl := List.length_eq_zero_iff.1 h.symm; rfl
  | cons b m ih =>
    cases e with
    | nil => simp at h
    | cons b' e =>
      have step : crcG (c ^^^ d ^^^ (b ^^^ b')) = crcG (c ^^^ b) ^^^ crcG (d ^^^ b') := by
        rw [← crcG_xor]; ac_rfl
      simp only [corrupt, List.zipWith_cons_cons, crcFrom_cons, step]
      exact ih (Nat.succ.inj h) _ _

theorem crc8_corrupt {m e : List Byte} (h : m.length = e.length) :
    crc8 (corrupt m e) = crc8 m ^^^ crcFrom 0#8 e := by
  simpa [crc8] using crcFrom_corrupt h crcInit 0#8

/-! ### The CRC of an error pattern -/

@[simp] theorem errorPattern_length (bits : List (Fin 56)) : (errorPattern bits).length = 7 := by
  simp [errorPattern]

theorem errorPattern_cons (i : Fin 56) (bits : List (Fin 56)) :
    errorPattern (i :: bits) = corrupt (errorPattern [i]) (errorPattern bits) := by
  simp [errorPattern, corrupt, List.zipWith_map, List.zipWith_self]

theorem crc0_errorPattern_nil : crcFrom 0#8 (errorPattern []) = 0#8 := by
  simp [errorPattern, crcFrom]

theorem crc0_errorPattern_cons (i : Fin 56) (bits : List (Fin 56)) :
    crcFrom 0#8 (errorPattern (i :: bits))
      = crcFrom 0#8 (errorPattern [i]) ^^^ crcFrom 0#8 (errorPattern bits) := by
  rw [errorPattern_cons]
  exact crcFrom_corrupt (by simp) 0#8 0#8

/-- The number of rounds that bit `i` of a frame goes through, counted from bit 0 of the register: the register
ends at `x ^ roundsOfBit i` modulo the polynomial. -/
def roundsOfBit (i : Fin 56) : Nat := 8 * (7 - i.val / 8) + i.val % 8

theorem roundsOfBit_injective : Function.Injective roundsOfBit := by
  intro i j h
  unfold roundsOfBit at h
  omega

theorem roundsOfBit_sub_lt (i j : Fin 56) : roundsOfBit i - roundsOfBit j < 56 := by
  unfold roundsOfBit
  omega

set_option maxRecDepth 4000 in
theorem crc0_errorPattern_single :
    ∀ i : Fin 56, crcFrom 0#8 (errorPattern [i]) = crcShift^[roundsOfBit i] 1#8 := by decide

/-! ### Errors of an odd number of bits -/

/-- The XOR of the bits of a byte. -/
def parity (x : Byte) : Bool := x[0] ^^ x[1] ^^ x[2] ^^ x[3] ^^ x[4] ^^ x[5] ^^ x[6] ^^ x[7]

theorem parity_xor (x y : Byte) : parity (x ^^^ y) = (parity x ^^ parity y) := by
  have : Std.Commutative Bool.xor := ⟨Bool.xor_comm⟩
  simp only [parity, BitVec.getElem_xor]
  ac_rfl

theorem parity_crcReduction (b : Bool) : parity (crcReduction b) = b := by
  cases b <;> rfl

/-- A round keeps the parity: the polynomial, with the bit that falls out, has four terms. -/
theorem parity_crcShift (x : Byte) : parity (crcShift x) = parity x := by
  rw [crcShift_eq, parity_xor, parity_crcReduction]
  simp [parity]

theorem parity_iterate_crcShift (n : Nat) (x : Byte) : parity (crcShift^[n] x) = parity x := by
  induction n generalizing x with
  | zero => rfl
  | succ n ih => rw [Function.iterate_succ_apply, ih, parity_crcShift]

theorem parity_crc0_errorPattern (bits : List (Fin 56)) :
    parity (crcFrom 0#8 (errorPattern bits)) = bits.length.bodd := by
  induction bits with
  | nil => rw [crc0_errorPattern_nil]; rfl
  | cons i bits ih =>
    rw [crc0_errorPattern_cons, parity_xor, ih, crc0_errorPattern_single, parity_iterate_crcShift,
      List.length_cons, Nat.bodd_succ]
    exact Bool.true_xor _

theorem crc0_errorPattern_ne_zero_of_odd {bits : List (Fin 56)} (h : bits.length.bodd = true) :
    crcFrom 0#8 (errorPattern bits) ≠ 0#8 := by
  intro hzero
  rw [← parity_crc0_errorPattern, hzero] at h
  exact absurd h (by decide)

/-! ### Errors of two bits -/

/-- The order of the round at 1 (it is 127) is not less than the number of bits in a frame. -/
theorem iterate_crcShift_one_ne_one : ∀ n < 56, n ≠ 0 → crcShift^[n] 1#8 ≠ 1#8 := by decide

theorem iterate_roundsOfBit_injective : Function.Injective fun i => crcShift^[roundsOfBit i] 1#8 := by
  intro i j h
  have sub_eq_zero {i j : Fin 56} (h : crcShift^[roundsOfBit i] 1#8 = crcShift^[roundsOfBit j] 1#8) :
      roundsOfBit i - roundsOfBit j = 0 := by
    by_contra hne
    exact iterate_crcShift_one_ne_one _ (roundsOfBit_sub_lt i j) hne
      (Function.iterate_cancel crcShift_injective h)
  have hij := sub_eq_zero h
  have hji := sub_eq_zero h.symm
  exact roundsOfBit_injective (by omega)

theorem crc0_errorPattern_pair_ne_zero {i j : Fin 56} (h : i ≠ j) :
    crcFrom 0#8 (errorPattern [i, j]) ≠ 0#8 := by
  rw [crc0_errorPattern_cons, crc0_errorPattern_single, crc0_errorPattern_single, Ne, BitVec.xor_eq_zero_iff]
  exact iterate_roundsOfBit_injective.ne h

/-! ### Errors of up to three bits -/

theorem crc0_errorPattern_ne_zero {bits : List (Fin 56)} (hnodup : bits.Nodup) (hpos : 1 ≤ bits.length)
    (hle : bits.length ≤ 3) : crcFrom 0#8 (errorPattern bits) ≠ 0#8 := by
  obtain h1 | h2 | h3 : bits.length = 1 ∨ bits.length = 2 ∨ bits.length = 3 := by omega
  · exact crc0_errorPattern_ne_zero_of_odd (by rw [h1]; rfl)
  · obtain ⟨i, j, rfl⟩ := List.length_eq_two.1 h2
    exact crc0_errorPattern_pair_ne_zero (by simpa using hnodup)
  · exact crc0_errorPattern_ne_zero_of_odd (by rw [h3]; rfl)

/-- On a frame that passes the check, the CRC over the corrupted bytes is the CRC of the error. -/
theorem crc8_corrupt_of_frameCrcOk {f : Frame} (hok : frameCrcOk f = true) {e : List Byte} (he : e.length = 7) :
    crc8 (corrupt f.bytes e) = crcFrom 0#8 e := by
  have hzero : crc8 f.bytes = 0#8 := eq_of_beq hok
  rw [crc8_corrupt (m := f.bytes) he.symm, hzero, BitVec.zero_xor]

set_option maxRecDepth 4000 in
/-- The polynomial itself, 0x01 in byte 5 and 0x31 in byte 6, is an error of four bits that passes. -/
theorem crc0_errorPattern_polynomial : crcFrom 0#8 (errorPattern [40, 48, 52, 53]) = 0#8 := by decide

/-- Settles O45: an odd error has a CRC of odd parity, two bits are fewer than 127 rounds apart, and the polynomial
itself is an error of four bits that passes. -/
theorem crcDetectsUpToThreeBitErrors : Obligations.CrcDetectsUpToThreeBitErrors := by
  refine ⟨fun m e hm he => crc8_corrupt (hm.trans he.symm), fun bits hnodup hpos hle => ?_,
    [40, 48, 52, 53], by decide, rfl, crc0_errorPattern_polynomial⟩
  have hne := crc0_errorPattern_ne_zero hnodup hpos hle
  exact ⟨hne, fun f hok => (crc8_corrupt_of_frameCrcOk hok (errorPattern_length bits)).trans_ne hne⟩

end Sys2Proof.Machine
end

section
/-! SUPPORT. The frame unpacker (43_unpack.md R190 to R197): the shifts and masks of the two fields are
concatenations of bytes and nibbles, so the fields and the five bytes determine each other, and the fields of a
packed frame are the ones it was packed with. -/

namespace Sys2Proof.Machine

/-! ### Masks, and the parts of a concatenation -/

/-- A mask of `k` ones keeps the low `k` bits. -/
theorem and_allOnes_eq_setWidth {w : Nat} (k : Nat) (x : BitVec w) :
    x &&& (BitVec.allOnes k).setWidth w = (x.setWidth k).setWidth w := by
  ext i hi
  simp [hi, Bool.and_comm]

theorem extractLsb'_append_of_high {m n k : Nat} (x : BitVec m) (z : BitVec (n + k)) :
    (x ++ z).extractLsb' k (m + n) = x ++ z.extractLsb' k n := by
  ext i hi
  obtain h | h : i < n ∨ n ≤ i := by omega
  · simp [BitVec.getElem_append, BitVec.getLsbD_append, h, show k + i < n + k by omega]
  · simp [BitVec.getElem_append, BitVec.getLsbD_append, show ¬ i < n by omega, show ¬ k + i < n + k by omega,
      show k + i - (n + k) = i - n by omega, show i - n < m by omega]

theorem append_inj_iff {m n : Nat} {x x' : BitVec m} {y y' : BitVec n} :
    x ++ y = x' ++ y' ↔ x = x' ∧ y = y' := by
  refine ⟨fun h => ⟨?_, ?_⟩, fun ⟨hx, hy⟩ => hx ▸ hy ▸ rfl⟩
  · have high := congrArg (BitVec.extractLsb' n m) h
    rwa [BitVec.extractLsb'_append_eq_left, BitVec.extractLsb'_append_eq_left] at high
  · simpa [BitVec.setWidth_append] using congrArg (BitVec.setWidth n) h

/-- Cut at two bits, a bit vector is its three parts. -/
theorem extractLsb'_append_three {l m k : Nat} (x : BitVec (l + m + k)) :
    x.extractLsb' (m + k) l ++ x.extractLsb' k m ++ x.extractLsb' 0 k = x := by
  rw [BitVec.extractLsb'_append_extractLsb'_eq_extractLsb' (Nat.add_comm m k),
    BitVec.extractLsb'_append_extractLsb'_eq_extractLsb' (Nat.zero_add k).symm, BitVec.extractLsb'_eq_self]

theorem eq_iff_nibbles (b c : Byte) :
    b = c ↔ b.extractLsb' 4 4 = c.extractLsb' 4 4 ∧ b.extractLsb' 0 4 = c.extractLsb' 0 4 := by
  have parts (b : Byte) : b.extractLsb' 4 4 ++ b.extractLsb' 0 4 = b :=
    (BitVec.extractLsb'_append_extractLsb'_eq_extractLsb' rfl).trans BitVec.extractLsb'_eq_self
  rw [← append_inj_iff, parts, parts]

/-! ### The fields as concatenations (R190, R191) -/

/-- Shifted to their places in a 32-bit word, the parts do not overlap. -/
theorem joined_bytes {n : Nat} (x : BitVec n) (y z : Byte) :
    x.setWidth 32 <<< 16 ||| y.setWidth 32 <<< 8 ||| z.setWidth 32 = (x ++ y ++ z).setWidth 32 := by
  ext i hi
  obtain h | ⟨h, h'⟩ | h : i < 8 ∨ (8 ≤ i ∧ i < 16) ∨ 16 ≤ i := by omega
  · simp [BitVec.getLsbD_append, h, show i < 16 by omega]
  · simp [BitVec.getLsbD_append, h', show ¬ i < 8 by omega, show i - 8 < 8 by omega,
      BitVec.getLsbD_of_ge z i h]
  · simp [BitVec.getLsbD_append, show ¬ i < 8 by omega, show ¬ i < 16 by omega, show ¬ i - 8 < 8 by omega,
      show i - 8 - 8 = i - 16 by omega, BitVec.getLsbD_of_ge z i (by omega),
      BitVec.getLsbD_of_ge y (i - 8) (by omega)]

theorem lowNibble_eq (b : Byte) : b.setWidth 32 &&& 0x0F#32 = (b.extractLsb' 0 4).setWidth 32 := by
  have mask : b.setWidth 32 &&& 0x0F#32 = ((b.setWidth 32).setWidth 4).setWidth 32 :=
    and_allOnes_eq_setWidth 4 _
  have low : (b.setWidth 32).setWidth 4 = b.extractLsb' 0 4 :=
    (BitVec.setWidth_setWidth_of_le b (by decide)).trans (BitVec.setWidth_eq_extractLsb' (by decide))
  rw [mask, low]

theorem unpackT_eq_append (f : Frame) : unpackT f = f.b3.extractLsb' 0 4 ++ f.b4 ++ f.b5 := by
  have mask (x : BitVec 32) : x &&& 0x000FFFFF#32 = (x.setWidth 20).setWidth 32 :=
    and_allOnes_eq_setWidth 20 x
  rw [unpackT, lowNibble_eq, joined_bytes, mask]
  simp

theorem unpackH_eq_append (f : Frame) : unpackH f = f.b1 ++ f.b2 ++ f.b3.extractLsb' 4 4 := by
  have high := extractLsb'_append_of_high (n := 4) (k := 4) (f.b1 ++ f.b2) f.b3
  rw [unpackH, joined_bytes]
  refine Eq.trans ?_ high
  ext i hi
  simp [show 4 + i < 32 by omega]

/-- Settles O46 by the two concatenation lemmas. -/
theorem unpackedFields : Obligations.UnpackedFields := fun f => ⟨unpackT_eq_append f, unpackH_eq_append f⟩

/-! ### The lanes (R193, R197) -/

theorem unpackT_eq_iff (f g : Frame) : unpackT f = unpackT g ↔
    (f.b3.extractLsb' 0 4 = g.b3.extractLsb' 0 4 ∧ f.b4 = g.b4) ∧ f.b5 = g.b5 := by
  rw [unpackT_eq_append, unpackT_eq_append]
  exact append_inj_iff.trans (and_congr_left' append_inj_iff)

theorem unpackH_eq_iff (f g : Frame) : unpackH f = unpackH g ↔
    (f.b1 = g.b1 ∧ f.b2 = g.b2) ∧ f.b3.extractLsb' 4 4 = g.b3.extractLsb' 4 4 := by
  rw [unpackH_eq_append, unpackH_eq_append]
  exact append_inj_iff.trans (and_congr_left' append_inj_iff)

/-- Settles O47: each field is its bytes, and byte 3 is the nibble of each. -/
theorem lanesPartition : Obligations.LanesPartition := by
  intro f g
  rw [unpackT_eq_iff, unpackH_eq_iff, eq_iff_nibbles f.b3]
  tauto

/-! ### The packed frame (R194, R195) -/

theorem unpackH_pack (b : Byte) (h t : RawField) : unpackH (pack b h t) = h := by
  have nibble : (pack b h t).b3.extractLsb' 4 4 = h.extractLsb' 0 4 := BitVec.extractLsb'_append_eq_left
  rw [unpackH_eq_append, nibble]
  exact extractLsb'_append_three (l := 8) (m := 8) (k := 4) h

theorem unpackT_pack (b : Byte) (h t : RawField) : unpackT (pack b h t) = t := by
  have nibble : (pack b h t).b3.extractLsb' 0 4 = t.extractLsb' 16 4 :=
    (BitVec.extractLsb'_append_eq_of_add_le (Nat.le_refl 4)).trans BitVec.extractLsb'_eq_self
  rw [unpackT_eq_append, nibble]
  exact extractLsb'_append_three (l := 4) (m := 8) (k := 8) t

theorem frameCrcOk_pack (b : Byte) (h t : RawField) : frameCrcOk (pack b h t) = true :=
  (crcCheckIsChecksumMatch _).2 rfl

end Sys2Proof.Machine
end

section
/-! SUPPORT. Rounding and bit patterns (10_state.md R11): a number that fits a format's precision inside its normal
range is not rounded, its pattern is the three fields of a normal number (or +0.0), and the pattern stands for the
number. Both converters stay with such numbers in binary64 (44_convert.md R212). -/

namespace Sys2Proof.Machine

/-! ### Exact arithmetic -/

theorem Scaled.toRat_times (x y : Scaled) : (x.times y).toRat = x.toRat * y.toRat := by
  simp only [Scaled.toRat, Scaled.times, Int.cast_mul, zpow_add₀ (two_ne_zero (α := Rat))]
  ring

/-- On a finer grid, the number has the numerator shifted by the difference of the exponents. -/
theorem Scaled.toRat_regrid (n : Int) {e exp : Int} (h : e ≤ exp) :
    Scaled.toRat ⟨n * 2 ^ (exp - e).toNat, e⟩ = Scaled.toRat ⟨n, exp⟩ := by
  have shift : (2 : Rat) ^ exp = 2 ^ (exp - e).toNat * 2 ^ e := by
    rw [← zpow_natCast, Int.toNat_of_nonneg (by omega), ← zpow_add₀ two_ne_zero, Int.sub_add_cancel]
  simp only [Scaled.toRat, Int.cast_mul, Int.cast_pow, Int.cast_ofNat, shift, mul_assoc]

theorem Scaled.toRat_minus (x y : Scaled) : (x.minus y).toRat = x.toRat - y.toRat := by
  have hx := Scaled.toRat_regrid x.num (Int.min_le_left x.exp y.exp)
  have hy := Scaled.toRat_regrid y.num (Int.min_le_right x.exp y.exp)
  rw [show x.toRat = _ from hx.symm, show y.toRat = _ from hy.symm]
  simp only [Scaled.toRat, Scaled.minus, Int.cast_sub, sub_mul]

/-! ### The three fields of a pattern -/

/-- The pattern with the given sign bit, biased exponent and fraction bits. -/
def floatBits (fmt : FloatFormat) (sign biased frac : Nat) : Nat :=
  (sign * 2 ^ (floatWidth fmt - precision fmt) + biased) * 2 ^ (precision fmt - 1) + frac

theorem two_pow_floatWidth_sub_one (fmt : FloatFormat) :
    2 ^ (floatWidth fmt - 1) = 2 ^ (floatWidth fmt - precision fmt) * 2 ^ (precision fmt - 1) := by
  cases fmt <;> rfl

section FloatBits
variable {fmt : FloatFormat} {sign biased frac : Nat}

theorem floatBits_frac (hf : frac < 2 ^ (precision fmt - 1)) :
    floatBits fmt sign biased frac % 2 ^ (precision fmt - 1) = frac := by
  rw [floatBits, Nat.mul_add_mod', Nat.mod_eq_of_lt hf]

theorem floatBits_high (hf : frac < 2 ^ (precision fmt - 1)) :
    floatBits fmt sign biased frac / 2 ^ (precision fmt - 1)
      = sign * 2 ^ (floatWidth fmt - precision fmt) + biased := by
  rw [floatBits, Nat.add_comm, Nat.add_mul_div_right _ _ (Nat.two_pow_pos _), Nat.div_eq_of_lt hf, Nat.zero_add]

theorem floatBits_biased (hf : frac < 2 ^ (precision fmt - 1))
    (hb : biased < 2 ^ (floatWidth fmt - precision fmt)) :
    floatBits fmt sign biased frac / 2 ^ (precision fmt - 1) % 2 ^ (floatWidth fmt - precision fmt) = biased := by
  rw [floatBits_high hf, Nat.mul_add_mod', Nat.mod_eq_of_lt hb]

theorem floatBits_sign (hf : frac < 2 ^ (precision fmt - 1))
    (hb : biased < 2 ^ (floatWidth fmt - precision fmt)) :
    floatBits fmt sign biased frac / 2 ^ (floatWidth fmt - 1) = sign := by
  rw [two_pow_floatWidth_sub_one, Nat.mul_comm, ← Nat.div_div_eq_div_mul, floatBits_high hf, Nat.add_comm,
    Nat.add_mul_div_right _ _ (Nat.two_pow_pos _), Nat.div_eq_of_lt hb, Nat.zero_add]

theorem floatBits_lt (hs : sign < 2) (hf : frac < 2 ^ (precision fmt - 1))
    (hb : biased < 2 ^ (floatWidth fmt - precision fmt)) :
    floatBits fmt sign biased frac < 2 ^ floatWidth fmt := by
  have width : 2 ^ floatWidth fmt = 2 * 2 ^ (floatWidth fmt - 1) := by cases fmt <;> rfl
  rw [width, ← Nat.div_lt_iff_lt_mul (Nat.two_pow_pos _), floatBits_sign hf hb]
  exact hs

end FloatBits

/-! ### Numbers that fit a format -/

/-- The numerator fits the format's precision, and the exponent keeps the number inside the normal range. -/
structure Scaled.Fits (fmt : FloatFormat) (x : Scaled) : Prop where
  num_lt : x.num.natAbs < 2 ^ precision fmt
  exp_ge : 1 - (expBias fmt : Int) ≤ x.exp
  exp_le : x.exp + (precision fmt : Int) - 1 ≤ (expBias fmt : Int)

/-- The numerator, shifted so that its leading bit stands at the highest place of the format. -/
def Scaled.significand (fmt : FloatFormat) (x : Scaled) : Nat :=
  x.num.natAbs * 2 ^ (precision fmt - 1 - Nat.log2 x.num.natAbs)

/-- The significand without its leading bit, which the pattern does not hold. -/
def Scaled.fraction (fmt : FloatFormat) (x : Scaled) : Nat := x.significand fmt - 2 ^ (precision fmt - 1)

/-- The exponent of the leading bit, as the pattern holds it. -/
def Scaled.biasedExp (fmt : FloatFormat) (x : Scaled) : Nat := (x.top + (expBias fmt : Int)).toNat

/-- The sign bit. -/
def Scaled.signBit (x : Scaled) : Nat := if x.num < 0 then 1 else 0

theorem Scaled.signBit_lt (x : Scaled) : x.signBit < 2 := by
  unfold Scaled.signBit
  split <;> decide

section Fits
variable {fmt : FloatFormat} {x : Scaled}

theorem Scaled.Fits.log2_lt (h : x.Fits fmt) : Nat.log2 x.num.natAbs < precision fmt := by
  by_cases h0 : x.num.natAbs = 0
  · rw [h0]
    cases fmt <;> decide
  · exact (Nat.log2_lt h0).2 h.num_lt

theorem Scaled.Fits.lastPlace_eq (h : x.Fits fmt) :
    lastPlace fmt x.top = x.exp - ((precision fmt - 1 - Nat.log2 x.num.natAbs : Nat) : Int) := by
  have hlog := h.log2_lt
  have hge := h.exp_ge
  simp only [lastPlace, Scaled.top]
  omega

theorem Scaled.Fits.lastPlace_le (h : x.Fits fmt) : lastPlace fmt x.top ≤ x.exp := by
  rw [h.lastPlace_eq]
  omega

theorem Scaled.Fits.roundNearest_eq (h : x.Fits fmt) : roundNearest fmt x = x := if_pos h.lastPlace_le

/-- The leading bit of the significand is the one of the highest place. -/
theorem Scaled.Fits.significand_bounds (h : x.Fits fmt) (h0 : x.num.natAbs ≠ 0) :
    2 ^ (precision fmt - 1) ≤ x.significand fmt ∧ x.significand fmt < 2 ^ (precision fmt - 1 + 1) := by
  have hlog := h.log2_lt
  have hadd : Nat.log2 x.num.natAbs + (precision fmt - 1 - Nat.log2 x.num.natAbs) = precision fmt - 1 := by
    omega
  have low := Nat.mul_le_mul_right (2 ^ (precision fmt - 1 - Nat.log2 x.num.natAbs)) (Nat.log2_self_le h0)
  have high := Nat.mul_lt_mul_of_pos_right (Nat.lt_log2_self (n := x.num.natAbs))
    (Nat.two_pow_pos (precision fmt - 1 - Nat.log2 x.num.natAbs))
  rw [← pow_add, hadd] at low
  rw [← pow_add, Nat.add_right_comm, hadd] at high
  exact ⟨low, high⟩

theorem Scaled.Fits.significand_eq (h : x.Fits fmt) (h0 : x.num.natAbs ≠ 0) :
    x.significand fmt = 2 ^ (precision fmt - 1) + x.fraction fmt := by
  rw [Scaled.fraction, Nat.add_sub_cancel' (h.significand_bounds h0).1]

theorem Scaled.Fits.fraction_lt (h : x.Fits fmt) (h0 : x.num.natAbs ≠ 0) :
    x.fraction fmt < 2 ^ (precision fmt - 1) := by
  have high := (h.significand_bounds h0).2
  rw [pow_succ, h.significand_eq h0] at high
  omega

theorem Scaled.Fits.biasedExp_eq (h : x.Fits fmt) :
    (x.biasedExp fmt : Int) = x.exp + (Nat.log2 x.num.natAbs : Int) + (expBias fmt : Int) := by
  have hge := h.exp_ge
  simp only [Scaled.biasedExp, Scaled.top]
  omega

theorem Scaled.Fits.biasedExp_pos (h : x.Fits fmt) : 0 < x.biasedExp fmt := by
  have heq := h.biasedExp_eq
  have hge := h.exp_ge
  omega

theorem Scaled.Fits.biasedExp_lt (h : x.Fits fmt) :
    x.biasedExp fmt < 2 ^ (floatWidth fmt - precision fmt) := by
  have heq := h.biasedExp_eq
  have hle := h.exp_le
  have hlog := h.log2_lt
  have hwidth : 2 * expBias fmt < 2 ^ (floatWidth fmt - precision fmt) := by cases fmt <;> decide
  omega

theorem Scaled.Fits.natAbs_shift (h : x.Fits fmt) :
    x.num.natAbs * 2 ^ (x.exp - lastPlace fmt x.top).toNat = x.significand fmt := by
  rw [h.lastPlace_eq, sub_sub_cancel, Int.toNat_natCast, Scaled.significand]

theorem Scaled.Fits.lastPlace_eq_biasedExp (h : x.Fits fmt) :
    lastPlace fmt x.top = (x.biasedExp fmt : Int) - (expBias fmt : Int) - ((precision fmt : Int) - 1) := by
  have hlog := h.log2_lt
  rw [h.lastPlace_eq, h.biasedExp_eq]
  omega

/-! ### The pattern of a number that fits -/

theorem patternOf_zero (h0 : x.num.natAbs = 0) : patternOf fmt x = 0 := if_pos h0

theorem Scaled.Fits.patternOf_eq (h : x.Fits fmt) (h0 : x.num.natAbs ≠ 0) :
    patternOf fmt x = floatBits fmt x.signBit (x.biasedExp fmt) (x.fraction fmt) := by
  have hexp : (lastPlace fmt x.top + ((precision fmt : Int) - 1) + (expBias fmt : Int)).toNat
      = x.biasedExp fmt := by
    rw [h.lastPlace_eq_biasedExp]
    omega
  have hsign : (if x.num < 0 then 2 ^ (floatWidth fmt - 1) else 0) = x.signBit * 2 ^ (floatWidth fmt - 1) := by
    simp [Scaled.signBit]
  obtain ⟨b, hb⟩ := Nat.exists_add_one_eq.2 h.biasedExp_pos
  simp only [patternOf, h0, h.lastPlace_le, if_true, if_false, h.natAbs_shift, hexp, hsign, h.significand_eq h0]
  rw [two_pow_floatWidth_sub_one, floatBits, ← hb, Nat.add_sub_cancel]
  ring

theorem Scaled.Fits.patternOf_lt (h : x.Fits fmt) : patternOf fmt x < 2 ^ floatWidth fmt := by
  by_cases h0 : x.num.natAbs = 0
  · rw [patternOf_zero h0]
    exact Nat.two_pow_pos _
  · rw [h.patternOf_eq h0]
    exact floatBits_lt x.signBit_lt (h.fraction_lt h0) h.biasedExp_lt

/-- With its sign, the significand is the numerator on the grid of the last place. -/
theorem Scaled.Fits.signed_significand (h : x.Fits fmt) :
    (if x.signBit % 2 = 1 then -(x.significand fmt : Int) else (x.significand fmt : Int))
      = x.num * 2 ^ (x.exp - lastPlace fmt x.top).toNat := by
  rw [← h.natAbs_shift]
  push_cast
  by_cases hn : x.num < 0
  · simp [Scaled.signBit, hn, abs_of_neg hn]
  · simp [Scaled.signBit, hn, abs_of_nonneg (not_lt.1 hn)]

theorem Scaled.Fits.valueOf_patternOf (h : x.Fits fmt) (h0 : x.num.natAbs ≠ 0) :
    valueOf fmt (patternOf fmt x)
      = ⟨x.num * 2 ^ (x.exp - lastPlace fmt x.top).toNat, lastPlace fmt x.top⟩ := by
  have hf := h.fraction_lt h0
  have hb := h.biasedExp_lt
  rw [h.patternOf_eq h0, ← h.signed_significand, h.lastPlace_eq_biasedExp]
  simp only [valueOf, floatBits_frac hf, floatBits_biased hf hb, floatBits_sign hf hb, h.biasedExp_pos.ne',
    if_false, ← h.significand_eq h0, Nat.max_eq_left h.biasedExp_pos]

/-- The pattern of a number that fits stands for that number. -/
theorem Scaled.Fits.toRat_valueOf_patternOf (h : x.Fits fmt) :
    (valueOf fmt (patternOf fmt x)).toRat = x.toRat := by
  by_cases h0 : x.num.natAbs = 0
  · rw [patternOf_zero h0]
    simp [valueOf, Scaled.toRat, Int.natAbs_eq_zero.1 h0]
  · rw [h.valueOf_patternOf h0]
    exact Scaled.toRat_regrid x.num h.lastPlace_le

theorem toRat_valueOf_ofNat64 (h : x.Fits .binary64) :
    (valueOf .binary64 (BitVec.ofNat 64 (patternOf .binary64 x)).toNat).toRat = x.toRat := by
  have hlt : patternOf .binary64 x < 2 ^ 64 := h.patternOf_lt
  rw [BitVec.toNat_ofNat, Nat.mod_eq_of_lt hlt, h.toRat_valueOf_patternOf]

end Fits

/-! ### The converters in binary64 (R210 to R212) -/

theorem toRat_rawValue (r : RawField) : (rawValue r).toRat = r.toNat := by
  simp [rawValue, Scaled.toRat]

theorem toRat_scaleT : scaleT.toRat = 200 / 2 ^ 20 := by
  norm_num [scaleT, Scaled.toRat]

theorem toRat_scaleH : scaleH.toRat = 100 / 2 ^ 20 := by
  norm_num [scaleH, Scaled.toRat]

theorem toRat_fifty : fifty.toRat = 50 := by
  norm_num [fifty, Scaled.toRat]

/-- The numerator of a product is 25 r, of at most 25 bits. -/
theorem product_fits64 (r : RawField) {k : Scaled} (hk : k = scaleT ∨ k = scaleH) :
    ((rawValue r).times k).Fits .binary64 := by
  have hr := r.isLt
  obtain rfl | rfl := hk
  · constructor <;> simp only [rawValue, Scaled.times, scaleT, precision, expBias] <;> omega
  · constructor <;> simp only [rawValue, Scaled.times, scaleH, precision, expBias] <;> omega

/-- The numerator of the difference is 25 r - 50 * 2^17, of at most 25 bits. -/
theorem difference_fits64 (r : RawField) : (((rawValue r).times scaleT).minus fifty).Fits .binary64 := by
  have hr := r.isLt
  have hnum : (((rawValue r).times scaleT).minus fifty).num = (r.toNat : Int) * 25 - 6553600 := by
    simp [rawValue, Scaled.times, Scaled.minus, scaleT, fifty]
  have hexp : (((rawValue r).times scaleT).minus fifty).exp = -17 := rfl
  refine ⟨?_, by rw [hexp]; decide, by rw [hexp]; decide⟩
  rw [hnum, precision]
  omega

theorem humNumber_binary64 (r : RawField) : humNumber .binary64 r = (rawValue r).times scaleH :=
  (product_fits64 r (.inr rfl)).roundNearest_eq

theorem tempNumber_binary64 (r : RawField) :
    tempNumber .binary64 r = ((rawValue r).times scaleT).minus fifty := by
  rw [tempNumber, (product_fits64 r (.inl rfl)).roundNearest_eq, (difference_fits64 r).roundNearest_eq]

theorem toRat_convT64 (r : RawField) :
    (valueOf .binary64 (convT64 r).toNat).toRat = (r.toNat : Rat) * 200 / 2 ^ 20 - 50 := by
  rw [convT64, tempNumber_binary64, toRat_valueOf_ofNat64 (difference_fits64 r), Scaled.toRat_minus,
    Scaled.toRat_times, toRat_rawValue, toRat_scaleT, toRat_fifty, mul_div_assoc]

theorem toRat_convH64 (r : RawField) :
    (valueOf .binary64 (convH64 r).toNat).toRat = (r.toNat : Rat) * 100 / 2 ^ 20 := by
  rw [convH64, humNumber_binary64, toRat_valueOf_ofNat64 (product_fits64 r (.inr rfl)), Scaled.toRat_times,
    toRat_rawValue, toRat_scaleH, mul_div_assoc]

end Sys2Proof.Machine
end

section
/-! SUPPORT. The round-trip law of packed frames (43_unpack.md R195). -/

namespace Sys2Proof.Machine

/-- A MEASURE that has read a packed frame of a ready device completes with the reading. -/
theorem exec_measure_of_packed {b : Byte} {h t : RawField} {s : State} (h7 : b[7] = false) (h3 : b[3] = true)
    (hf : s.fsm = .mEval) (hframe : s.frame = pack b h t) : exec .measure s = .next (completeReading s) := by
  have ready : statusCheck s.frame.b0 = .none := by
    rw [hframe]
    exact statusCheck_of_ready h7 h3
  have passes : crc8 s.frame.bytes = 0x00#8 := by
    rw [hframe]
    exact eq_of_beq (frameCrcOk_pack b h t)
  rw [exec_measure_mEval hf, evaluate_of_good_frame ready passes]

/-- Settles O48: the fields are the packed ones, both checks pass, and in binary64 the conversion is exact. -/
theorem packRoundTrip : Obligations.PackRoundTrip := by
  intro b h t
  refine ⟨unpackH_pack b h t, unpackT_pack b h t, frameCrcOk_pack b h t, fun h7 h3 s hf hframe => ?_⟩
  have temp : (completeReading s).temp = convT s.params.floatFormat t := by
    simp [completeReading, hframe, unpackT_pack]
  have hum : (completeReading s).hum = convH s.params.floatFormat h := by
    simp [completeReading, hframe, unpackH_pack]
  refine ⟨_, exec_measure_of_packed h7 h3 hf hframe, rfl, rfl, rfl, rfl, temp, hum, fun h64 => ?_⟩
  rw [h64] at temp hum
  exact ⟨convT64 t, convH64 h, temp, hum, toRat_convT64 t, toRat_convH64 h⟩

end Sys2Proof.Machine
end

section
/-! SUPPORT. The converters in binary64 (44_convert.md R212, R214): every number they round fits the format, so nothing
is rounded, and the exponent field of a pattern is the biased exponent of a normal number, or the pattern is +0.0. -/

namespace Sys2Proof.Machine

section Fits
variable {fmt : FloatFormat} {x : Scaled}

theorem Scaled.Fits.toNat_ofNat_patternOf (h : x.Fits fmt) :
    (BitVec.ofNat (floatWidth fmt) (patternOf fmt x)).toNat = patternOf fmt x := by
  rw [BitVec.toNat_ofNat, Nat.mod_eq_of_lt h.patternOf_lt]

/-! ### The exponent field (R214) -/

theorem Scaled.Fits.patternOf_exponentField (h : x.Fits fmt) (h0 : x.num.natAbs ≠ 0) :
    patternOf fmt x / 2 ^ (precision fmt - 1) % 2 ^ (floatWidth fmt - precision fmt) = x.biasedExp fmt := by
  rw [h.patternOf_eq h0, floatBits_biased (h.fraction_lt h0) h.biasedExp_lt]

/-- The all-ones exponent field stands for a NaN or an infinity: it is one more than twice the bias. -/
theorem Scaled.Fits.biasedExp_ne_ones (h : x.Fits fmt) :
    x.biasedExp fmt ≠ 2 ^ (floatWidth fmt - precision fmt) - 1 := by
  have heq := h.biasedExp_eq
  have hle := h.exp_le
  have hlog := h.log2_lt
  have hwidth : 2 ^ (floatWidth fmt - precision fmt) = 2 * expBias fmt + 2 := by cases fmt <;> rfl
  omega

theorem Scaled.Fits.exponentField_ne_ones (h : x.Fits fmt) :
    patternOf fmt x / 2 ^ (precision fmt - 1) % 2 ^ (floatWidth fmt - precision fmt)
      ≠ 2 ^ (floatWidth fmt - precision fmt) - 1 := by
  by_cases h0 : x.num.natAbs = 0
  · rw [patternOf_zero h0]
    cases fmt <;> decide
  · rw [h.patternOf_exponentField h0]
    exact h.biasedExp_ne_ones

theorem Scaled.Fits.patternOf_eq_zero_of_exponentField (h : x.Fits fmt)
    (hfield : patternOf fmt x / 2 ^ (precision fmt - 1) % 2 ^ (floatWidth fmt - precision fmt) = 0) :
    patternOf fmt x = 0 := by
  by_cases h0 : x.num.natAbs = 0
  · exact patternOf_zero h0
  · rw [h.patternOf_exponentField h0] at hfield
    exact absurd hfield h.biasedExp_pos.ne'

theorem Scaled.Fits.patternOf_eq_zero_iff (h : x.Fits fmt) : patternOf fmt x = 0 ↔ x.num = 0 := by
  refine ⟨fun hw => ?_, fun hn => patternOf_zero (Int.natAbs_eq_zero.2 hn)⟩
  by_contra hn
  have field := h.patternOf_exponentField (Int.natAbs_ne_zero.2 hn)
  rw [hw, Nat.zero_div, Nat.zero_mod] at field
  exact h.biasedExp_pos.ne field

end Fits

/-! ### The numerators and the patterns -/

theorem rawValue_times (r : RawField) {k : Scaled} (hk : k = scaleT ∨ k = scaleH) :
    (rawValue r).times k = ⟨(25 * r.toNat : Nat), k.exp⟩ := by
  obtain rfl | rfl := hk <;> simp [rawValue, Scaled.times, scaleT, scaleH, mul_comm]

theorem difference_num (r : RawField) :
    (((rawValue r).times scaleT).minus fifty).num = 25 * (r.toNat : Int) - 6553600 := by
  simp [rawValue, Scaled.times, Scaled.minus, scaleT, fifty, mul_comm]

theorem toNat_convT64 (r : RawField) :
    (convT64 r).toNat = patternOf .binary64 (((rawValue r).times scaleT).minus fifty) := by
  rw [convT64, tempNumber_binary64]
  exact (difference_fits64 r).toNat_ofNat_patternOf

theorem toNat_convH64 (r : RawField) :
    (convH64 r).toNat = patternOf .binary64 ((rawValue r).times scaleH) := by
  rw [convH64, humNumber_binary64]
  exact (product_fits64 r (.inr rfl)).toNat_ofNat_patternOf

theorem toNat_convT64_eq_zero_iff (r : RawField) : (convT64 r).toNat = 0 ↔ r = 0x40000#20 := by
  rw [toNat_convT64, (difference_fits64 r).patternOf_eq_zero_iff, difference_num, BitVec.toNat_eq,
    BitVec.toNat_ofNat]
  omega

theorem toNat_convH64_eq_zero_iff (r : RawField) : (convH64 r).toNat = 0 ↔ r = 0#20 := by
  rw [toNat_convH64, (product_fits64 r (.inr rfl)).patternOf_eq_zero_iff, rawValue_times r (.inr rfl),
    BitVec.toNat_eq, BitVec.toNat_ofNat, Int.natCast_eq_zero]
  omega

/-- Settles O49: the products and the difference fit binary64. -/
theorem binary64IsExact : Obligations.Binary64IsExact := by
  intro r
  refine ⟨(product_fits64 r (.inl rfl)).roundNearest_eq, (product_fits64 r (.inr rfl)).roundNearest_eq,
    tempNumber_binary64 r, ?_, ?_⟩
  · rw [toRat_convT64]
    ring
  · rw [toRat_convH64]
    ring

/-- Settles O50: both patterns are those of numbers that fit binary64, and only the number 0 has the pattern +0.0. -/
theorem binary64SpecialValues : Obligations.Binary64SpecialValues := by
  intro r w hw
  obtain ⟨x, hx, rfl⟩ : ∃ x : Scaled, x.Fits .binary64 ∧ w = patternOf .binary64 x := by
    rw [toNat_convT64, toNat_convH64, List.mem_pair] at hw
    obtain temp | hum := hw
    · exact ⟨_, difference_fits64 r, temp⟩
    · exact ⟨_, product_fits64 r (.inr rfl), hum⟩
  exact ⟨hx.exponentField_ne_ones, hx.patternOf_eq_zero_of_exponentField,
    toNat_convT64_eq_zero_iff r, toNat_convH64_eq_zero_iff r⟩

end Sys2Proof.Machine
end

section
/-! SUPPORT. The converters in binary32 (44_convert.md R219): a product has at most one bit more than the format's 24,
and then it is rounded by halving its numerator; after that, everything fits. -/

namespace Sys2Proof.Machine

/-! ### Rounding away one bit -/

theorem two_mul_divTiesEven_one_of_even {n : Nat} (h : n % 2 = 0) : 2 * divTiesEven n 1 = n := by
  simp [divTiesEven, h]
  omega

/-- An odd number is a tie, which goes to one of its two neighbours. -/
theorem two_mul_divTiesEven_one_of_odd {n : Nat} (h : n % 2 = 1) :
    2 * divTiesEven n 1 = n + 1 ∨ 2 * divTiesEven n 1 + 1 = n := by
  simp [divTiesEven, h]
  omega

theorem abs_two_mul_divTiesEven_one_sub_of_odd {n : Nat} (h : n % 2 = 1) :
    |((2 * divTiesEven n 1 : Nat) : Rat) - n| = 1 := by
  obtain up | down := two_mul_divTiesEven_one_of_odd h
  · rw [up, Nat.cast_add_one, add_sub_cancel_left, abs_one]
  · have hn : (n : Rat) = (2 * divTiesEven n 1 : Nat) + 1 := by exact_mod_cast down.symm
    rw [hn, sub_add_cancel_left, abs_neg, abs_one]

theorem two_mul_divTiesEven_one_le (n : Nat) : 2 * divTiesEven n 1 ≤ n + 1 := by
  obtain even | odd := Nat.mod_two_eq_zero_or_one n
  · rw [two_mul_divTiesEven_one_of_even even]
    exact Nat.le_succ n
  · have tie := two_mul_divTiesEven_one_of_odd odd
    omega

section ExtraBit
variable {fmt : FloatFormat} {n : Nat} {e : Int} (hlo : 2 ^ precision fmt ≤ n) (hhi : n < 2 ^ (precision fmt + 1))
  (he : 1 - (expBias fmt : Int) ≤ e)
include hlo hhi he

theorem lastPlace_of_extra_bit : lastPlace fmt (Scaled.top ⟨n, e⟩) = e + 1 := by
  have hn : n ≠ 0 := ((Nat.two_pow_pos _).trans_le hlo).ne'
  have hlog : Nat.log2 n = precision fmt := (Nat.log2_eq_iff hn).2 ⟨hlo, hhi⟩
  simp only [lastPlace, Scaled.top, Int.natAbs_natCast, hlog]
  omega

theorem roundNearest_of_extra_bit : roundNearest fmt ⟨n, e⟩ = ⟨(divTiesEven n 1 : Nat), e + 1⟩ := by
  have hn : n ≠ 0 := ((Nat.two_pow_pos _).trans_le hlo).ne'
  have hsign : (n : Int).sign = 1 := Int.sign_natCast_of_ne_zero hn
  simp [roundNearest, lastPlace_of_extra_bit hlo hhi he, hsign]

end ExtraBit

/-! ### The rounded product -/

/-- The grids that the converters use lie far inside the normal range. -/
theorem fits32_of_exp_bounds {n e : Int} (hn : n.natAbs < 2 ^ 24) (hge : -18 ≤ e) (hle : e ≤ -16) :
    Scaled.Fits .binary32 ⟨n, e⟩ := by
  constructor <;> simp only [precision, expBias] <;> omega

/-- The product 25 r * `k`, rounded to binary32. -/
def product32 (r : RawField) (k : Scaled) : Scaled := roundNearest .binary32 ((rawValue r).times k)

section Product
variable {r : RawField} {k : Scaled} (hk : k = scaleT ∨ k = scaleH)
include hk

theorem scale_exp : -18 ≤ k.exp ∧ k.exp ≤ -17 := by
  obtain rfl | rfl := hk <;> decide

theorem product_fits32 (h : 25 * r.toNat < 2 ^ 24) : ((rawValue r).times k).Fits .binary32 := by
  have hexp := scale_exp hk
  rw [rawValue_times r hk]
  exact fits32_of_exp_bounds h (by omega) (by omega)

theorem product32_of_lt (h : 25 * r.toNat < 2 ^ 24) : product32 r k = ⟨(25 * r.toNat : Nat), k.exp⟩ := by
  rw [product32, (product_fits32 hk h).roundNearest_eq, rawValue_times r hk]

theorem product32_of_ge (h : 2 ^ 24 ≤ 25 * r.toNat) :
    product32 r k = ⟨(divTiesEven (25 * r.toNat) 1 : Nat), k.exp + 1⟩ := by
  have hr := r.isLt
  have hexp := scale_exp hk
  rw [product32, rawValue_times r hk]
  exact roundNearest_of_extra_bit h (by simp only [precision]; omega) (by simp only [expBias]; omega)

/-- The numerator of the rounded product is a natural number of at most 24 bits, on the product's grid or the next. -/
theorem exists_product32_eq (r : RawField) :
    ∃ (m : Nat) (e : Int), product32 r k = ⟨m, e⟩ ∧ m < 2 ^ 24 ∧ (e = k.exp ∨ e = k.exp + 1) := by
  obtain lt | ge := Nat.lt_or_ge (25 * r.toNat) (2 ^ 24)
  · exact ⟨_, _, product32_of_lt hk lt, lt, .inl rfl⟩
  · have hr := r.isLt
    have half := two_mul_divTiesEven_one_le (25 * r.toNat)
    exact ⟨_, _, product32_of_ge hk ge, by omega, .inr rfl⟩

theorem product32_fits (r : RawField) : (product32 r k).Fits .binary32 := by
  have hexp := scale_exp hk
  obtain ⟨m, e, heq, hm, he⟩ := exists_product32_eq hk r
  rw [heq]
  exact fits32_of_exp_bounds hm (by omega) (by omega)

theorem toRat_rawValue_times (r : RawField) :
    ((rawValue r).times k).toRat = ((25 * r.toNat : Nat) : Rat) * 2 ^ k.exp := by
  rw [rawValue_times r hk, Scaled.toRat, Int.cast_natCast]

theorem toRat_product32_of_ge (h : 2 ^ 24 ≤ 25 * r.toNat) :
    (product32 r k).toRat = ((2 * divTiesEven (25 * r.toNat) 1 : Nat) : Rat) * 2 ^ k.exp := by
  rw [product32_of_ge hk h, Scaled.toRat, zpow_add_one₀ two_ne_zero]
  push_cast
  ring

theorem toRat_product32_of_exact (h : 25 * r.toNat < 2 ^ 24 ∨ r.toNat % 2 = 0) :
    (product32 r k).toRat = ((rawValue r).times k).toRat := by
  obtain lt | ge := Nat.lt_or_ge (25 * r.toNat) (2 ^ 24)
  · rw [product32_of_lt hk lt, rawValue_times r hk]
  · rw [toRat_product32_of_ge hk ge, toRat_rawValue_times hk, two_mul_divTiesEven_one_of_even (by omega)]

/-- A product that is rounded moves by one unit of its grid. -/
theorem toRat_product32_error (hge : 2 ^ 24 ≤ 25 * r.toNat) (hodd : r.toNat % 2 = 1) :
    |(product32 r k).toRat - ((rawValue r).times k).toRat| = 2 ^ k.exp := by
  rw [toRat_product32_of_ge hk hge, toRat_rawValue_times hk, ← sub_mul, abs_mul,
    abs_two_mul_divTiesEven_one_sub_of_odd (by omega), one_mul, abs_of_pos (zpow_pos two_pos _)]

end Product

/-! ### The converters -/

/-- 50 is on the rounded product's grid, and the difference is not larger than the larger of the two. -/
theorem difference_fits32 (r : RawField) : ((product32 r scaleT).minus fifty).Fits .binary32 := by
  obtain ⟨m, e, heq, hm, rfl | rfl⟩ := exists_product32_eq (.inl rfl) r
  · have difference : Scaled.minus ⟨m, -17⟩ fifty = ⟨m - 6553600, -17⟩ := by simp [Scaled.minus, fifty]
    rw [heq, show scaleT.exp = -17 from rfl, difference]
    exact fits32_of_exp_bounds (by omega) (by decide) (by decide)
  · have difference : Scaled.minus ⟨m, -16⟩ fifty = ⟨m - 3276800, -16⟩ := by simp [Scaled.minus, fifty]
    rw [heq, show scaleT.exp + 1 = -16 from rfl, difference]
    exact fits32_of_exp_bounds (by omega) (by decide) (by decide)

theorem tempNumber_binary32 (r : RawField) : tempNumber .binary32 r = (product32 r scaleT).minus fifty :=
  (difference_fits32 r).roundNearest_eq

theorem toRat_tempNumber32 (r : RawField) :
    (tempNumber .binary32 r).toRat = (product32 r scaleT).toRat - 50 := by
  rw [tempNumber_binary32, Scaled.toRat_minus, toRat_fifty]

theorem toRat_convT32 (r : RawField) :
    (valueOf .binary32 (convT32 r).toNat).toRat = (product32 r scaleT).toRat - 50 := by
  have fits : (tempNumber .binary32 r).Fits .binary32 := tempNumber_binary32 r ▸ difference_fits32 r
  have bits : (convT32 r).toNat = patternOf .binary32 (tempNumber .binary32 r) := fits.toNat_ofNat_patternOf
  rw [bits, fits.toRat_valueOf_patternOf, toRat_tempNumber32]

theorem toRat_convH32 (r : RawField) :
    (valueOf .binary32 (convH32 r).toNat).toRat = (product32 r scaleH).toRat := by
  have bits : (convH32 r).toNat = patternOf .binary32 (product32 r scaleH) :=
    (product32_fits (.inr rfl) r).toNat_ofNat_patternOf
  rw [bits, (product32_fits (.inr rfl) r).toRat_valueOf_patternOf]

theorem toRat_productT (r : RawField) :
    ((rawValue r).times scaleT).toRat - 50 = (25 * (r.toNat : Rat) - 6553600) / 2 ^ 17 := by
  rw [Scaled.toRat_times, toRat_rawValue, toRat_scaleT]
  ring

theorem toRat_productH (r : RawField) : ((rawValue r).times scaleH).toRat = 25 * (r.toNat : Rat) / 2 ^ 18 := by
  rw [Scaled.toRat_times, toRat_rawValue, toRat_scaleH]
  ring

/-- Settles O51: only the product is rounded, when it has 25 bits, and then it moves exactly if its last bit is 1. -/
theorem binary32Rounding : Obligations.Binary32Rounding := by
  intro r
  refine ⟨fun fine => ⟨?_, ?_⟩, fun ge odd => ⟨?_, ?_⟩, toRat_tempNumber32 r⟩
  · rw [toRat_convT32, toRat_product32_of_exact (.inl rfl) fine, toRat_productT]
  · rw [toRat_convH32, toRat_product32_of_exact (.inr rfl) fine, toRat_productH]
  · rw [toRat_convT32, ← toRat_productT, sub_sub_sub_cancel_right, toRat_product32_error (.inl rfl) ge odd]
    norm_num [scaleT]
  · rw [toRat_convH32, ← toRat_productH, toRat_product32_error (.inr rfl) ge odd]
    norm_num [scaleH]

end Sys2Proof.Machine
end

section
/-! SUPPORT. How an operation ends at a failed transaction and at a reserved code, and that nothing else ends a wait
(60_exceptions.md R233, R234, R235, R248). -/

namespace Sys2Proof.Machine

/-! ### A reserved code (R235) -/

/-- In IDLE a reserved code's event is its Accept, which completes at once and so leaves `fsm` as it is. -/
theorem illegalRequest_of_idle (op : OpCode) {s : State} (hf : s.fsm = .idle) :
    illegalRequest op s = .next { s with
      done := true, result := .err, errCause := .illegalOp, pend := false, requests := s.requests.tail,
      trace := s.trace ++ [.accept op] ++ [.complete .err .illegalOp] } := by
  simp [illegalRequest, acceptIllegal, complete, accept, hf]

/-- Settles O10: both instructions are the one event of a reserved code in IDLE. -/
theorem illegalRequestCompletes : Obligations.IllegalRequestCompletes := fun _ hf =>
  ⟨illegalRequest_of_idle 0b00#2 hf, illegalRequest_of_idle 0b11#2 hf⟩

/-! ### A failed transaction (R233, R234) -/

/-- The answer event of a failed response is Abort, whatever the state's own handler is. -/
theorem busAnswer_failed {req : BusReq} {onOk : List Byte → State → State} {code : ResultCode} {rx : List Byte}
    (s : State) (hc : code = .err ∨ code = .timeout) :
    busAnswer req onOk ⟨code, rx⟩ s = .next (abort code (takeBusAnswer code rx s)) := by
  obtain rfl | rfl := hc
  · rfl
  · rfl

/-- Settles O21: the step is the answer event of the outstanding request, which aborts in every bus state alike. -/
theorem failedTransactionAborts : Obligations.FailedTransactionAborts := by
  intro s code rx hb hn hc
  obtain ⟨hp, r, hq⟩ := busPending_iff.1 hb
  obtain ⟨onOk, he⟩ := step_busAnswer hp hq hn
  rw [he, busAnswer_failed _ hc, abort_of_failed hc]
  rfl

/-- Of the rows of R230 only the transport's has the result Timeout. -/
theorem Completion.of_timeout {s t : State} {c : Cause} (h : Completion s t .timeout c) :
    c = .transport ∧ ∃ rx, s.busResp = some ⟨.timeout, rx⟩ := by
  cases h with
  | transport code rx hc ha => exact ⟨rfl, rx, ha⟩

/-- A step from clear ports completes with Timeout only at the transport's own Timeout (R234). -/
theorem step_completes_timeout {s t : State} {c : Cause} (hi : s.Inv) (h : step s = .next t)
    (hm : .complete .timeout c ∈ s.eventsSince t) :
    c = .transport ∧ s.busPending = true ∧ ∃ rx, s.nextTurn = .busAnswer .timeout rx := by
  obtain ⟨u, hd, hc⟩ := completion_of_step h hm
  obtain ⟨rfl, rx, ha⟩ := hc.of_timeout
  obtain ⟨hp, hn⟩ := hd.busResp hi.portsClear.1 ha
  exact ⟨rfl, hp, rx, hn⟩

theorem step_reset {s : State} (hn : s.nextTurn = .reset) : step s = .next (resetEvent s.popTurn) := by
  rw [step_eq, hn, takeTurn_reset]

/-- Settles O22: RESULT is written by a completion, which shows what it writes, or by reset, which writes Err. -/
theorem timeoutOnlyFromTransport : Obligations.TimeoutOnlyFromTransport := by
  intro s t hi h
  refine ⟨fun c => step_completes_timeout hi h, fun ht => or_iff_not_imp_left.2 fun hs => ?_⟩
  have hn : s.nextTurn ≠ .reset := by
    intro hn
    cases (step_reset hn).symm.trans h
    cases ht
  obtain ⟨hm, -⟩ := resultsChangeOnlyAtComplete s t h hn (.inl fun he => hs (he ▸ ht))
  rw [ht] at hm
  obtain ⟨hc, -⟩ := step_completes_timeout hi h hm
  rwa [hc] at hm

/-! ### No other end to a wait (R248, R268) -/

/-- While no answer is at its port, the Sequencer's turn changes nothing, in bus and delay states alike. -/
theorem sequencerTurn_of_waiting {s : State} (h : s.Waiting) : sequencerTurn s = .next s := by
  obtain ⟨hp, hq, hr, hd⟩ := h
  obtain ⟨r, hq⟩ := Option.isSome_iff_exists.1 hq
  cases r with
  | bus r =>
    obtain ⟨onOk, he⟩ := sequencerTurn_bus hq
    exact he.trans (busState_wait hp hr)
  | delay ms =>
    obtain ⟨nextFsm, he⟩ := sequencerTurn_delay hq
    exact he.trans (delayState_wait hp hd)

/-- Settles O40: a request is outstanding only where `fsm` is legal, so the step is the Sequencer's own turn. -/
theorem waitsWithoutLimit : Obligations.WaitsWithoutLimit := by
  intro s h hn
  have ⟨_, hq, _⟩ := h
  obtain ⟨r, hq⟩ := Option.isSome_iff_exists.1 hq
  rw [step_of_legal (legal_of_request hq), hn]
  exact sequencerTurn_of_waiting (s := s.popTurn) h

end Sys2Proof.Machine
end

section
/-! SUPPORT. What reset sets and what it abandons (70_reset_and_hazards.md R260, R261). -/

namespace Sys2Proof.Machine

/-- A reset shows itself and nothing else: no completion, and no request to a collaborator. -/
theorem eventsSince_resetEvent_popTurn (s : State) : s.eventsSince (resetEvent s.popTurn) = [.reset] :=
  eventsSince_of_append (resetEvent_trace s.popTurn)

/-- The answer to a request that a reset abandoned is counted off and reaches nothing else (R261). -/
theorem lateAnswer_of_abandoned {s : State} (ha : s.abandoned ≠ 0) :
    lateAnswer s = .next { s with abandoned := s.abandoned - 1 } := if_neg ha

/-- Settles O32: the step is the reset event, whatever the state holds. (The obligation's own name is taken by the
model's `resetEvent`.) -/
theorem resetEvent_inAnyState : Obligations.ResetEvent := by
  intro s hn
  refine ⟨resetEvent s.popTurn, step_reset hn, ?_⟩
  simp [eventsSince_resetEvent_popTurn]

/-- Settles O33: reset leaves the block in IDLE, where no request is outstanding, and shows no completion. -/
theorem resetAbandonsTheOperation : Obligations.ResetAbandonsTheOperation := by
  constructor
  · intro s t hn h
    cases (step_reset hn).symm.trans h
    obtain ⟨hb, hd⟩ := not_pending_of_idle (resetEvent_fsm s.popTurn)
    refine ⟨?_, hb, hd, resetEvent_requests s.popTurn, resetEvent_abandoned s.popTurn⟩
    simp [eventsSince_resetEvent_popTurn]
  · intro s hf hn ha
    rw [step_of_legal hf, hn]
    exact lateAnswer_of_abandoned (s := s.popTurn) ha

end Sys2Proof.Machine
end
